-- ==== Sys2Proof/Word.lean ====
section
/-! DEFINITION. The word types of the CV32E20: what 00_scope R8 calls vectors of bits, and nothing else. -/

namespace Sys2Proof

/-- A 32-bit register, address or instruction word (00_scope R7: XLEN = 32). -/
abbrev Word := BitVec 32

/-- The smallest addressable unit of memory (20_memory R100). -/
abbrev Byte := BitVec 8

/-- A 5-bit register number as the 32-bit formats carry it (30_encoding R143). -/
abbrev Reg := BitVec 5

/-- A 3-bit compressed register field; it names register 8 + field (30_encoding R160). -/
abbrev CReg := BitVec 3

/-- A 12-bit CSR address (10_state R31). -/
abbrev CsrAddr := BitVec 12

/-- The two privilege modes (10_state R26). -/
inductive Priv where
  | M
  | U
deriving DecidableEq, Repr

end Sys2Proof
end

