-- ==== Sys2Proof/Config.lean ====
section
/-! DEFINITION. What an implementation of the CV32E20 fixes (00_scope R7), as plain data, and the values no
rule fixes at all (93_implementation_defined section 1, treatment "any value"), as constants with no body. -/

namespace Sys2Proof

/-- 20_memory R120: what stands behind a region of MEM_MAP. -/
inductive RegionKind where
  | ram
  | rom
  | device
  | clint
deriving DecidableEq, Repr

/-- 20_memory R120: a subset of the operations fetch, read, write for each of the modes M and U. -/
structure Perms where
  fetchM : Bool
  readM : Bool
  writeM : Bool
  fetchU : Bool
  readU : Bool
  writeU : Bool
deriving DecidableEq, Repr

/-- Every operation in both modes. -/
def Perms.all : Perms := ⟨true, true, true, true, true, true⟩

/-- 20_memory R120: one region of MEM_MAP, the addresses `base .. base + size - 1`. -/
structure Region where
  base : Word
  size : Nat
  kind : RegionKind
  perms : Perms
deriving DecidableEq, Repr

/-- 20_memory R115, R120: one bus transfer that a `device` region has been given: an action of its device model. A
write carries the bytes, lowest address first. -/
inductive DeviceAccess where
  | read (addr : Word) (len : Nat)
  | write (addr : Word) (bytes : List Byte)
deriving DecidableEq, Repr

/-- The address a transfer to a device was made at. -/
def DeviceAccess.addr : DeviceAccess → Word
  | .read a _ => a
  | .write a _ => a

/-- 00_scope R7, MISALIGNED_SPLIT. -/
inductive MisalignedSplit where
  | twoCycles
  | byteHalf
deriving DecidableEq, Repr

/-- 10_state R37, MTVEC_MODE_FIXED; `free` is the rule's `none`. -/
inductive MtvecModeFixed where
  | free
  | direct
  | vectored
deriving DecidableEq, Repr

/-- The parameters of 00_scope R7 (XLEN, the extensions and the number of harts are fixed by the spec and have
no field). A run never changes them (assumption 1). `debugHaltAddr` is the model's own: where the hart goes on
entry to Debug mode, which 20_memory R117 leaves to the platform (assumption 21). -/
structure Config where
  rv32e : Bool
  hpmNum : Fin 11
  hpmWidth : Nat
  misalignedSplit : MisalignedSplit
  resetPc : Word
  mtvecReset : Word
  mtvecModeFixed : MtvecModeFixed
  mtvecBaseAlign : Nat
  memMap : List Region
  sharedImemDmem : Bool
  imemMap : List Region
  customIrqMask : BitVec 16
  clintBase : Word
  clintMsipOff : Word
  clintMtimecmpOff : Word
  clintMtimeOff : Word
  mvendorid : Word
  marchid : Word
  mimpid : Word
  mhartid : Word
  uCounterAccess : Bool
  dbgTriggers : Nat
  haltAddr : Option Word
  debugHaltAddr : Word
deriving DecidableEq, Repr

/-- The values 92_eei_decisions suggests under "Parameters left OPEN", and where it suggests none the ones
assumption 2 names (DESIGN CHOICE): RV32I, MARCHID and MIMPID 0, CLINT_BASE 0x02000000 with no CLINT mapped, an empty
`imemMap`, and `debugHaltAddr` 0x00000000, the address at which the hart goes on in Debug mode, which 20_memory R117
leaves to the platform; and for RESET_PC and MTVEC_RESET the Ibex layout of 70_reset R402 with boot address 0
(PRESUMED). -/
def Config.standard : Config where
  rv32e := false
  hpmNum := 0
  hpmWidth := 32
  misalignedSplit := .twoCycles
  resetPc := 0x00000080#32
  mtvecReset := 0x00000001#32
  mtvecModeFixed := .free
  mtvecBaseAlign := 2
  memMap := [⟨0#32, 0x100000000, .ram, Perms.all⟩]
  sharedImemDmem := true
  imemMap := []
  customIrqMask := 0xFFFF#16
  clintBase := 0x02000000#32
  clintMsipOff := 0x0000#32
  clintMtimecmpOff := 0x4000#32
  clintMtimeOff := 0xBFF8#32
  mvendorid := 0x00000602#32
  marchid := 0#32
  mimpid := 0#32
  mhartid := 0#32
  uCounterAccess := true
  dbgTriggers := 1
  haltAddr := none
  debugHaltAddr := 0#32

/-- Two regions have no address in common (20_memory R120 asks for disjoint regions). -/
def Region.disjoint (p q : Region) : Bool :=
  p.base.toNat + p.size ≤ q.base.toNat || q.base.toNat + q.size ≤ p.base.toNat

/-- A list of pairwise disjoint regions, each inside the 2^32-byte space. -/
def regionsWf : List Region → Bool
  | [] => true
  | r :: rest => decide (r.base.toNat + r.size ≤ 2 ^ 32) && rest.all r.disjoint && regionsWf rest

/-- The constraints 00_scope R7 and its decisions put on the parameters. -/
def Config.wf (c : Config) : Bool :=
  decide (32 ≤ c.hpmWidth) && decide (c.hpmWidth ≤ 64) && !c.resetPc.getLsbD 0 && !c.mtvecReset.getLsbD 1
    && decide (2 ≤ c.mtvecBaseAlign) && decide (c.mtvecBaseAlign ≤ 31)
    && regionsWf c.memMap && regionsWf c.imemMap && !c.debugHaltAddr.getLsbD 0

/-! Free values. Each is applied to `State.draws`, which grows by one every step, so that it is fresh in every
step; nothing is known of any of them (assumption 7). -/

/-- U11: the step advances `mcycle` by 1 + this (10_state R62 asks for a draw of at least 1). -/
opaque Config.freeCycles : Nat → Nat

/-- U12: the advance of event counter n at a step. -/
opaque Config.freeEvents : Nat → Nat → Nat

/-- U13: the advance of `mtime` at a step. -/
opaque Config.freeTicks : Nat → Nat

/-- U14: does the software line (first argument false) or the timer line (true) take up the CLINT's value at
this step. -/
opaque Config.freeLineSettles : Bool → Nat → Bool

/-- U9: what a read of `cpuctrl` gives; it may depend on the value last written. -/
opaque Config.freeCpuctrl : Nat → Word → Word

/-- U7: what a read of `mcause` gives after software wrote a value no trap entry can produce. -/
opaque Config.freeMcause : Nat → Word → Word

/-- U2: is the byte at this address (or the transfer to a device at this address) written by a store another of whose
parts faults. -/
opaque Config.freePartial : Nat → Word → Bool

/-- U4: which of the values a stored-to byte may still be fetched as. -/
opaque Config.freeStale : Nat → Word → Nat

/-- 60_exceptions R391: the value that a device gives for the byte at this address, after the transfers it has been
given so far (assumption 16). -/
opaque Config.freeDeviceByte : List DeviceAccess → Nat → Word → Byte

/-- What a byte of a `clint` region that belongs to no register of 60_exceptions R387 reads as, on the data bus
(false) or the instruction bus (true) (assumption 18). -/
opaque Config.freeClintByte : Bool → Nat → Word → Byte

/-- U32: how many transfers of its access an instruction had made when reset was asserted. -/
opaque Config.freeResetCut : Nat → Nat

/-- 10_state R51: `dcsr.prv` is WARL; the mode a write of 0b01 or 0b10 leaves is not stated (assumption 22). -/
opaque Config.freeDcsrPrvIsM : Nat → Bool

end Sys2Proof
end

