-- ==== Sys2Proof/Machine/State.lean ====
section
/-! DEFINITION. Everything the spec gives the machine as state (10_state R20, R30; 60_exceptions R387), as plain
data, the reasons a step can stop, and the state after reset (70_reset_and_hazards R401). -/

namespace Sys2Proof.Machine

open Sys2Proof

/-- 10_state R34: the implemented fields of `mstatus`. All its other bits read 0 and ignore writes. -/
structure Mstatus where
  mie : Bool
  mpie : Bool
  mpp : Priv
  mprv : Bool
  tw : Bool
deriving DecidableEq, Repr

/-- 10_state R51: the fields of `dcsr` that are not constant. -/
structure Dcsr where
  ebreakm : Bool
  ebreaku : Bool
  stepie : Bool
  cause : BitVec 3
  step : Bool
  prv : Priv
deriving DecidableEq, Repr

/-- 10_state R42: `mcause`. `isOpen` says that software's last write was a value trap entry can never produce, so
that what a read gives is not stated (U7, assumption 8). -/
structure Mcause where
  value : Word
  isOpen : Bool
deriving DecidableEq, Repr

/-- 10_state R30, 60_exceptions R376: the context that NMI entry saves. -/
structure NmiSaved where
  mpp : Priv
  mpie : Bool
  mepc : Word
  mcause : Mcause
deriving DecidableEq, Repr

/-- 10_state R30: the input lines as the current step sees them; `custom` holds lines 31:16. -/
structure Lines where
  software : Bool
  timer : Bool
  external : Bool
  custom : BitVec 16
  nmi : Bool
  debugReq : Bool
deriving DecidableEq, Repr

/-- What the environment does at one step (00_scope R12, 60_exceptions R391): the lines it drives, the bytes that other
agents write to memory before it (20_memory R124), and the reset signal (70_reset_and_hazards R403). -/
structure Input where
  lines : Lines
  writes : List (Word × Byte)
  reset : Bool
deriving DecidableEq, Repr

/-- 10_state R46, R47: one trigger, the writable bit of its `tdata1` and its `tdata2`. -/
structure Trigger where
  execute : Bool
  address : Word
deriving DecidableEq, Repr

/-- What the instruction of the current step did, for the counter update of 10_state R62: did it retire, and
which CSR did it write. The model's own; every step ends with it cleared (assumption 7). -/
structure StepLog where
  retired : Bool
  wroteCsr : Option CsrAddr
deriving DecidableEq, Repr

/-- Memory as a list of (address, byte), addresses strictly rising, no entry equal to what an unlisted address
reads as (`Memory.wf` in Ops.lean). -/
abbrev Memory := List Host.Cell

/-- The state of the machine: 10_state R20 and R30, 20_memory R100, 60_exceptions R387, and five fields of the
model's own (`cfg`, `inputs`, `device`, `draws`, `log`). -/
structure State where
  /-- 00_scope R7: the parameters of this instance, constant over a run (assumption 1). -/
  cfg : Config
  /-- R21: general registers; entry 0 is never read and stays 0. -/
  regs : Vector Word 32
  /-- R24. -/
  pc : Word
  /-- R26. -/
  priv : Priv
  /-- R27. -/
  debugMode : Bool
  /-- R30: asleep in WFI. -/
  wfiSleep : Bool
  /-- R30, R376: inside the NMI handler. -/
  inNmi : Bool
  /-- R30, R376. -/
  nmiSaved : NmiSaved
  /-- R34. -/
  mstatus : Mstatus
  /-- R36. -/
  mie : Word
  /-- R37. -/
  mtvec : Word
  /-- R38. -/
  mcountinhibit : Word
  /-- R40. -/
  mscratch : Word
  /-- R41. -/
  mepc : Word
  /-- R42. -/
  mcause : Mcause
  /-- R43. -/
  mtval : Word
  /-- R45. -/
  tselect : Word
  /-- R46, R47: DBG_TRIGGERS triggers. -/
  triggers : List Trigger
  /-- R51. -/
  dcsr : Dcsr
  /-- R52. -/
  dpc : Word
  /-- R53. -/
  dscratch0 : Word
  /-- R53. -/
  dscratch1 : Word
  /-- R54: the value last written. -/
  cpuctrl : Word
  /-- R55: `mcycleh` and `mcycle` as one counter. -/
  mcycle : BitVec 64
  /-- R56: `minstreth` and `minstret` as one counter. -/
  minstret : BitVec 64
  /-- R57: mhpmcounter3..12 with their h halves; entry k is counter k + 3. -/
  hpmcounters : Vector (BitVec 64) 10
  /-- R387: bit 0 of the CLINT's `msip`. -/
  msip : Bool
  /-- R387. -/
  mtimecmp : BitVec 64
  /-- R387. -/
  mtime : BitVec 64
  /-- R30: the input lines of this step. -/
  lines : Lines
  /-- R391: what the environment does at the coming steps; when nothing is left the lines keep their values. -/
  inputs : List Input
  /-- 20_memory R100: data memory; instruction memory too when `cfg.sharedImemDmem`. -/
  mem : Memory
  /-- 20_memory R103: the separate instruction memory when not `cfg.sharedImemDmem`. -/
  imem : Memory
  /-- R30, 20_memory R127: values that bytes stored to since the last FENCE.I had before, and may be fetched as. -/
  stale : List Host.Cell
  /-- 20_memory R115: the bus transfers that device regions have been given so far, the newest first. -/
  device : List DeviceAccess
  /-- Grows by one each step, so that every free value is fresh (assumption 7). -/
  draws : Nat
  /-- What this step's instruction did. -/
  log : StepLog
deriving DecidableEq, Repr

/-- The machine stops of itself. The hardware has no such stop (60_exceptions R358, R390). -/
inductive Fault where
  /-- A step found bit 0 of pc set when it was about to fetch. No rule gives such a fetch a meaning (10_state R24:
  the bit is always 0) and no run from reset reaches it. Raised by `step`. Safe (assumption 30). -/
  | oddPc
deriving DecidableEq, Repr

/-- The model declines to go on. -/
inductive Refusal where
  /-- An arm of `exec` whose instruction has no meaning yet. Raised by no arm of this model. Safe. -/
  | notModelled (mnemonic : String)
  /-- A fetch reached a `device` region (U3, 20_memory R115; assumption 17). Raised by `step`. Safe. -/
  | fetchFromDevice
  /-- A synchronous exception inside the NMI handler: "the state after it is unspecified ... and a model should
  refuse such a run" (60_exceptions R377, U5; assumption 19). Raised by whatever raises an exception. Safe. -/
  | exceptionInNmi
  /-- A synchronous exception in Debug mode (U30; assumption 20). Raised by whatever raises one. Safe. -/
  | exceptionInDebugMode
  /-- MRET in Debug mode, "outside this spec" (60_exceptions R384, U30; assumption 20). Raised by MRET. Safe. -/
  | mretInDebugMode
deriving DecidableEq, Repr

/-- No line is driven high. -/
def Lines.low : Lines := ⟨false, false, false, 0#16, false, false⟩

/-- Nothing has happened in this step yet. -/
def StepLog.empty : StepLog := ⟨false, none⟩

/-- 70_reset_and_hazards R400, R401: the hart after reset, given what reset does not touch (R404). A value the
rule states stands as stated; one it shows as Ibex's is PRESUMED (assumption 3); the others are DESIGN CHOICE
(assumption 4). -/
def State.resetWith (cfg : Config) (mem imem : Memory) (lines : Lines) (inputs : List Input)
    (device : List DeviceAccess) (draws : Nat) : State where
  cfg := cfg
  regs := Vector.replicate 32 0#32
  pc := cfg.resetPc
  priv := .M
  debugMode := false
  wfiSleep := false
  inNmi := false
  nmiSaved := ⟨.U, false, 0#32, ⟨0#32, false⟩⟩
  mstatus := ⟨false, true, .U, false, false⟩
  mie := 0#32
  mtvec := cfg.mtvecReset
  mcountinhibit := 0#32
  mscratch := 0#32
  mepc := 0#32
  mcause := ⟨0#32, false⟩
  mtval := 0#32
  tselect := 0#32
  triggers := List.replicate cfg.dbgTriggers ⟨false, 0#32⟩
  dcsr := ⟨false, false, false, 0#3, false, .M⟩
  dpc := 0#32
  dscratch0 := 0#32
  dscratch1 := 0#32
  cpuctrl := 0#32
  mcycle := 0#64
  minstret := 0#64
  hpmcounters := Vector.replicate 10 0#64
  msip := false
  mtimecmp := 0#64
  mtime := 0#64
  lines := lines
  inputs := inputs
  mem := mem
  imem := imem
  stale := []
  device := device
  draws := draws
  log := StepLog.empty

/-- The machine right after its first reset: the standard configuration, nothing in memory, every line low. -/
def State.reset : State := State.resetWith Config.standard [] [] Lines.low [] [] 0

end Sys2Proof.Machine
end

