-- ==== Sys2Proof/Machine/Flags.lean ====
section
/-! DEFINITION. There are no status flags (10_state R28): a comparison is made where it is used and leaves no
trace. Here are the comparison conditions of the branches (41 R214..R219) and of set-less-than (40 R184, R185,
R195, R196), and nothing else. -/

namespace Sys2Proof.Machine

open Sys2Proof

/-- `a <s b` of 00_scope R9. -/
def ltS (a b : Word) : Bool := a.slt b

/-- `a <u b` of 00_scope R9. -/
def ltU (a b : Word) : Bool := a.ult b

/-- R214: all 32 bits equal. -/
def condEq (a b : Word) : Bool := decide (a = b)

/-- The result of set-less-than: 0 or 1 in a full register (R184). -/
def boolWord (c : Bool) : Word := if c then 1#32 else 0#32

end Sys2Proof.Machine
end

