-- ==== Sys2Proof/WellFormed.lean ====
section
/-! DEFINITION. Which terms of `Instr` are encodings of the row they name: the `constraints` of
spec/opcode_table.json (30_encoding R149, R162..R164). Every other field is as wide as its encoding, so no other
check exists. -/

namespace Sys2Proof

/-- The constraints of the opcode table's rows; a row without constraints has none here. -/
def Instr.wellFormed : Instr → Bool
  | .cAddi4spn _ imm => decide (imm ≠ 0#8)
  | .cAddi rd _ => decide (rd ≠ 0#5)
  | .cAddi16sp imm => decide (imm ≠ 0#6)
  | .cLui rd imm => decide (rd ≠ 2#5) && decide (imm ≠ 0#6)
  | .cLwsp rd _ => decide (rd ≠ 0#5)
  | .cJr rs1 => decide (rs1 ≠ 0#5)
  | .cMv _ rs2 => decide (rs2 ≠ 0#5)
  | .cJalr rs1 => decide (rs1 ≠ 0#5)
  | .cAdd _ rs2 => decide (rs2 ≠ 0#5)
  | .lui _ _ | .auipc _ _ | .jal _ _ | .jalr _ _ _ | .beq _ _ _ | .bne _ _ _ | .blt _ _ _ | .bge _ _ _
  | .bltu _ _ _ | .bgeu _ _ _ | .lb _ _ _ | .lh _ _ _ | .lw _ _ _ | .lbu _ _ _ | .lhu _ _ _ | .sb _ _ _
  | .sh _ _ _ | .sw _ _ _ | .addi _ _ _ | .slti _ _ _ | .sltiu _ _ _ | .xori _ _ _ | .ori _ _ _ | .andi _ _ _
  | .slli _ _ _ | .srli _ _ _ | .srai _ _ _ | .add _ _ _ | .sub _ _ _ | .sll _ _ _ | .slt _ _ _ | .sltu _ _ _
  | .xor _ _ _ | .srl _ _ _ | .sra _ _ _ | .or _ _ _ | .and _ _ _ | .fence _ _ _ _ _ | .ecall | .ebreak
  | .mul _ _ _ | .mulh _ _ _ | .mulhsu _ _ _ | .mulhu _ _ _ | .div _ _ _ | .divu _ _ _ | .rem _ _ _
  | .remu _ _ _ | .csrrw _ _ _ | .csrrs _ _ _ | .csrrc _ _ _ | .csrrwi _ _ _ | .csrrsi _ _ _ | .csrrci _ _ _
  | .fenceI _ _ _ | .mret | .wfi | .dret | .cLw _ _ _ | .cSw _ _ _ | .cNop _ | .cJal _ | .cLi _ _
  | .cSrli _ _ | .cSrai _ _ | .cAndi _ _ | .cSub _ _ | .cXor _ _ | .cOr _ _ | .cAnd _ _ | .cJ _ | .cBeqz _ _
  | .cBnez _ _ | .cSlli _ _ | .cEbreak | .cSwsp _ _ => true

end Sys2Proof
end

