-- ==== Sys2Proof/Decode.lean ====
section
/-! DEFINITION. Decoding and encoding (30_encoding). The decoder is total on any bits and rejects by name; the
encoder is written from the same format tables, after it. Field positions are those of R142, R143, R159 and the
immediate scrambles those of R144 and R161. -/

namespace Sys2Proof

/-- An instruction's bits: one 16-bit parcel, or a 32-bit word (30_encoding R140). -/
inductive InstrBits where
  | half (p : BitVec 16)
  | full (w : BitVec 32)
deriving DecidableEq, Repr

/-- The length in bytes, `ilen` of 00_scope R9. -/
def InstrBits.len : InstrBits → Nat
  | .half _ => 2
  | .full _ => 4

/-- The bits as a 32-bit value, a parcel zero-extended: what `mtval` receives (60_exceptions R369, 46 R309). -/
def InstrBits.toWord : InstrBits → Word
  | .half p => p.setWidth 32
  | .full w => w

/-- The bytes in memory order, little-endian (20_memory R106). -/
def InstrBits.bytes : InstrBits → List Byte
  | .half p => [p.extractLsb' 0 8, p.extractLsb' 8 8]
  | .full w => [w.extractLsb' 0 8, w.extractLsb' 8 8, w.extractLsb' 16 8, w.extractLsb' 24 8]

/-- Why no row of the opcode table matches; every one is an illegal instruction (30_encoding R149). -/
inductive DecodeReject where
  /-- Fewer bytes than the length of R141 asks for: only on a byte list, never on a fetched instruction. -/
  | truncated
  /-- A parcel of 46_c_compressed R308. -/
  | reservedParcel (p : BitVec 16)
  /-- A major opcode this hardware does not have (R145, R156). -/
  | unimplementedOpcode (w : BitVec 32)
  /-- A reserved funct3 or funct7 inside an implemented major opcode (R153). -/
  | reservedFunction (w : BitVec 32)
  /-- A SYSTEM word that R148 makes illegal. -/
  | reservedSystem (w : BitVec 32)
deriving DecidableEq, Repr

/-! ### Fields of the 32-bit formats (R142, R143) -/

def fOpcode (w : BitVec 32) : BitVec 7 := w.extractLsb' 0 7
def fRd (w : BitVec 32) : Reg := w.extractLsb' 7 5
def fFunct3 (w : BitVec 32) : BitVec 3 := w.extractLsb' 12 3
def fRs1 (w : BitVec 32) : Reg := w.extractLsb' 15 5
def fRs2 (w : BitVec 32) : Reg := w.extractLsb' 20 5
def fFunct7 (w : BitVec 32) : BitVec 7 := w.extractLsb' 25 7
def fImm12 (w : BitVec 32) : BitVec 12 := w.extractLsb' 20 12
def fImmU (w : BitVec 32) : BitVec 20 := w.extractLsb' 12 20
def fFm (w : BitVec 32) : BitVec 4 := w.extractLsb' 28 4
def fPred (w : BitVec 32) : BitVec 4 := w.extractLsb' 24 4
def fSucc (w : BitVec 32) : BitVec 4 := w.extractLsb' 20 4

/-- S format: imm[11:5] = 31:25, imm[4:0] = 11:7. -/
def fImmS (w : BitVec 32) : BitVec 12 := w.extractLsb' 25 7 ++ w.extractLsb' 7 5

/-- B format, imm[12:1]: bit 31, bit 7, bits 30:25, bits 11:8. -/
def fImmB (w : BitVec 32) : BitVec 12 :=
  w.extractLsb' 31 1 ++ w.extractLsb' 7 1 ++ w.extractLsb' 25 6 ++ w.extractLsb' 8 4

/-- J format, imm[20:1]: bit 31, bits 19:12, bit 20, bits 30:21. -/
def fImmJ (w : BitVec 32) : BitVec 20 :=
  w.extractLsb' 31 1 ++ w.extractLsb' 12 8 ++ w.extractLsb' 20 1 ++ w.extractLsb' 21 10

/-! ### The 32-bit decoder (R145..R148, R153, R154) -/

def decodeBranch (w : BitVec 32) : Except DecodeReject Instr :=
  if fFunct3 w = 0#3 then .ok (.beq (fRs1 w) (fRs2 w) (fImmB w))
  else if fFunct3 w = 1#3 then .ok (.bne (fRs1 w) (fRs2 w) (fImmB w))
  else if fFunct3 w = 4#3 then .ok (.blt (fRs1 w) (fRs2 w) (fImmB w))
  else if fFunct3 w = 5#3 then .ok (.bge (fRs1 w) (fRs2 w) (fImmB w))
  else if fFunct3 w = 6#3 then .ok (.bltu (fRs1 w) (fRs2 w) (fImmB w))
  else if fFunct3 w = 7#3 then .ok (.bgeu (fRs1 w) (fRs2 w) (fImmB w))
  else .error (.reservedFunction w)

def decodeLoad (w : BitVec 32) : Except DecodeReject Instr :=
  if fFunct3 w = 0#3 then .ok (.lb (fRd w) (fRs1 w) (fImm12 w))
  else if fFunct3 w = 1#3 then .ok (.lh (fRd w) (fRs1 w) (fImm12 w))
  else if fFunct3 w = 2#3 then .ok (.lw (fRd w) (fRs1 w) (fImm12 w))
  else if fFunct3 w = 4#3 then .ok (.lbu (fRd w) (fRs1 w) (fImm12 w))
  else if fFunct3 w = 5#3 then .ok (.lhu (fRd w) (fRs1 w) (fImm12 w))
  else .error (.reservedFunction w)

def decodeStore (w : BitVec 32) : Except DecodeReject Instr :=
  if fFunct3 w = 0#3 then .ok (.sb (fRs1 w) (fRs2 w) (fImmS w))
  else if fFunct3 w = 1#3 then .ok (.sh (fRs1 w) (fRs2 w) (fImmS w))
  else if fFunct3 w = 2#3 then .ok (.sw (fRs1 w) (fRs2 w) (fImmS w))
  else .error (.reservedFunction w)

def decodeOpImm (w : BitVec 32) : Except DecodeReject Instr :=
  if fFunct3 w = 0#3 then .ok (.addi (fRd w) (fRs1 w) (fImm12 w))
  else if fFunct3 w = 2#3 then .ok (.slti (fRd w) (fRs1 w) (fImm12 w))
  else if fFunct3 w = 3#3 then .ok (.sltiu (fRd w) (fRs1 w) (fImm12 w))
  else if fFunct3 w = 4#3 then .ok (.xori (fRd w) (fRs1 w) (fImm12 w))
  else if fFunct3 w = 6#3 then .ok (.ori (fRd w) (fRs1 w) (fImm12 w))
  else if fFunct3 w = 7#3 then .ok (.andi (fRd w) (fRs1 w) (fImm12 w))
  else if fFunct3 w = 1#3 then
    if fFunct7 w = 0x00#7 then .ok (.slli (fRd w) (fRs1 w) (fRs2 w)) else .error (.reservedFunction w)
  else
    if fFunct7 w = 0x00#7 then .ok (.srli (fRd w) (fRs1 w) (fRs2 w))
    else if fFunct7 w = 0x20#7 then .ok (.srai (fRd w) (fRs1 w) (fRs2 w))
    else .error (.reservedFunction w)

/-- OP with funct7 = 0000000 (R146). -/
def decodeOpBase (w : BitVec 32) : Instr :=
  if fFunct3 w = 0#3 then .add (fRd w) (fRs1 w) (fRs2 w)
  else if fFunct3 w = 1#3 then .sll (fRd w) (fRs1 w) (fRs2 w)
  else if fFunct3 w = 2#3 then .slt (fRd w) (fRs1 w) (fRs2 w)
  else if fFunct3 w = 3#3 then .sltu (fRd w) (fRs1 w) (fRs2 w)
  else if fFunct3 w = 4#3 then .xor (fRd w) (fRs1 w) (fRs2 w)
  else if fFunct3 w = 5#3 then .srl (fRd w) (fRs1 w) (fRs2 w)
  else if fFunct3 w = 6#3 then .or (fRd w) (fRs1 w) (fRs2 w)
  else .and (fRd w) (fRs1 w) (fRs2 w)

/-- OP with funct7 = 0000001, the M extension (R147). -/
def decodeOpMul (w : BitVec 32) : Instr :=
  if fFunct3 w = 0#3 then .mul (fRd w) (fRs1 w) (fRs2 w)
  else if fFunct3 w = 1#3 then .mulh (fRd w) (fRs1 w) (fRs2 w)
  else if fFunct3 w = 2#3 then .mulhsu (fRd w) (fRs1 w) (fRs2 w)
  else if fFunct3 w = 3#3 then .mulhu (fRd w) (fRs1 w) (fRs2 w)
  else if fFunct3 w = 4#3 then .div (fRd w) (fRs1 w) (fRs2 w)
  else if fFunct3 w = 5#3 then .divu (fRd w) (fRs1 w) (fRs2 w)
  else if fFunct3 w = 6#3 then .rem (fRd w) (fRs1 w) (fRs2 w)
  else .remu (fRd w) (fRs1 w) (fRs2 w)

def decodeOp (w : BitVec 32) : Except DecodeReject Instr :=
  if fFunct7 w = 0x00#7 then .ok (decodeOpBase w)
  else if fFunct7 w = 0x01#7 then .ok (decodeOpMul w)
  else if fFunct7 w = 0x20#7 then
    if fFunct3 w = 0#3 then .ok (.sub (fRd w) (fRs1 w) (fRs2 w))
    else if fFunct3 w = 5#3 then .ok (.sra (fRd w) (fRs1 w) (fRs2 w))
    else .error (.reservedFunction w)
  else .error (.reservedFunction w)

def decodeMiscMem (w : BitVec 32) : Except DecodeReject Instr :=
  if fFunct3 w = 0#3 then .ok (.fence (fFm w) (fPred w) (fSucc w) (fRs1 w) (fRd w))
  else if fFunct3 w = 1#3 then .ok (.fenceI (fRd w) (fRs1 w) (fImm12 w))
  else .error (.reservedFunction w)

def decodeSystem (w : BitVec 32) : Except DecodeReject Instr :=
  if fFunct3 w = 1#3 then .ok (.csrrw (fRd w) (fRs1 w) (fImm12 w))
  else if fFunct3 w = 2#3 then .ok (.csrrs (fRd w) (fRs1 w) (fImm12 w))
  else if fFunct3 w = 3#3 then .ok (.csrrc (fRd w) (fRs1 w) (fImm12 w))
  else if fFunct3 w = 5#3 then .ok (.csrrwi (fRd w) (fRs1 w) (fImm12 w))
  else if fFunct3 w = 6#3 then .ok (.csrrsi (fRd w) (fRs1 w) (fImm12 w))
  else if fFunct3 w = 7#3 then .ok (.csrrci (fRd w) (fRs1 w) (fImm12 w))
  else if w = 0x00000073#32 then .ok .ecall
  else if w = 0x00100073#32 then .ok .ebreak
  else if w = 0x30200073#32 then .ok .mret
  else if w = 0x10500073#32 then .ok .wfi
  else if w = 0x7B200073#32 then .ok .dret
  else .error (.reservedSystem w)

/-- The 32-bit decoder: major opcode by R145, then as the tables say. A word whose two low bits are not 11
matches no major opcode (R142). -/
def decodeFull (w : BitVec 32) : Except DecodeReject Instr :=
  if fOpcode w = 0x37#7 then .ok (.lui (fRd w) (fImmU w))
  else if fOpcode w = 0x17#7 then .ok (.auipc (fRd w) (fImmU w))
  else if fOpcode w = 0x6F#7 then .ok (.jal (fRd w) (fImmJ w))
  else if fOpcode w = 0x67#7 then
    if fFunct3 w = 0#3 then .ok (.jalr (fRd w) (fRs1 w) (fImm12 w)) else .error (.reservedFunction w)
  else if fOpcode w = 0x63#7 then decodeBranch w
  else if fOpcode w = 0x03#7 then decodeLoad w
  else if fOpcode w = 0x23#7 then decodeStore w
  else if fOpcode w = 0x13#7 then decodeOpImm w
  else if fOpcode w = 0x33#7 then decodeOp w
  else if fOpcode w = 0x0F#7 then decodeMiscMem w
  else if fOpcode w = 0x73#7 then decodeSystem w
  else .error (.unimplementedOpcode w)

/-! ### Fields of the compressed formats (R159..R161) -/

def cOp (p : BitVec 16) : BitVec 2 := p.extractLsb' 0 2
def cFunct3 (p : BitVec 16) : BitVec 3 := p.extractLsb' 13 3
/-- rd, or rs1, of CR and CI. -/
def cRd (p : BitVec 16) : Reg := p.extractLsb' 7 5
/-- rs2 of CR and CSS. -/
def cRs2 (p : BitVec 16) : Reg := p.extractLsb' 2 5
/-- rs1', or rd', at bits 9:7. -/
def cRs1' (p : BitVec 16) : CReg := p.extractLsb' 7 3
/-- rd', or rs2', at bits 4:2. -/
def cRs2' (p : BitVec 16) : CReg := p.extractLsb' 2 3
def cBit12 (p : BitVec 16) : BitVec 1 := p.extractLsb' 12 1
def cFunct2 (p : BitVec 16) : BitVec 2 := p.extractLsb' 10 2
def cFunct2' (p : BitVec 16) : BitVec 2 := p.extractLsb' 5 2
def cShamt (p : BitVec 16) : BitVec 5 := p.extractLsb' 2 5

/-- C.ADDI4SPN, nzuimm[9:2]: bits 10:7, 12:11, 5, 6. -/
def cImm4spn (p : BitVec 16) : BitVec 8 :=
  p.extractLsb' 7 4 ++ p.extractLsb' 11 2 ++ p.extractLsb' 5 1 ++ p.extractLsb' 6 1

/-- C.LW and C.SW, uimm[6:2]: bits 5, 12:10, 6. -/
def cImmLw (p : BitVec 16) : BitVec 5 := p.extractLsb' 5 1 ++ p.extractLsb' 10 3 ++ p.extractLsb' 6 1

/-- The CI immediate [5:0]: bits 12, 6:2. -/
def cImm6 (p : BitVec 16) : BitVec 6 := p.extractLsb' 12 1 ++ p.extractLsb' 2 5

/-- C.JAL and C.J, offset[11:1]: bits 12, 8, 10:9, 6, 7, 2, 11, 5:3. -/
def cImmJ (p : BitVec 16) : BitVec 11 :=
  p.extractLsb' 12 1 ++ p.extractLsb' 8 1 ++ p.extractLsb' 9 2 ++ p.extractLsb' 6 1 ++ p.extractLsb' 7 1
    ++ p.extractLsb' 2 1 ++ p.extractLsb' 11 1 ++ p.extractLsb' 3 3

/-- C.ADDI16SP, nzimm[9:4]: bits 12, 4:3, 5, 2, 6. -/
def cImm16sp (p : BitVec 16) : BitVec 6 :=
  p.extractLsb' 12 1 ++ p.extractLsb' 3 2 ++ p.extractLsb' 5 1 ++ p.extractLsb' 2 1 ++ p.extractLsb' 6 1

/-- C.BEQZ and C.BNEZ, offset[8:1]: bits 12, 6:5, 2, 11:10, 4:3. -/
def cImmB (p : BitVec 16) : BitVec 8 :=
  p.extractLsb' 12 1 ++ p.extractLsb' 5 2 ++ p.extractLsb' 2 1 ++ p.extractLsb' 10 2 ++ p.extractLsb' 3 2

/-- C.LWSP, uimm[7:2]: bits 3:2, 12, 6:4. -/
def cImmLwsp (p : BitVec 16) : BitVec 6 := p.extractLsb' 2 2 ++ p.extractLsb' 12 1 ++ p.extractLsb' 4 3

/-- C.SWSP, uimm[7:2]: bits 8:7, 12:9. -/
def cImmSwsp (p : BitVec 16) : BitVec 6 := p.extractLsb' 7 2 ++ p.extractLsb' 9 4

/-! ### The 16-bit decoder (R162..R165) -/

/-- Quadrant 0 (R162). -/
def decodeQ0 (p : BitVec 16) : Except DecodeReject Instr :=
  if cFunct3 p = 0#3 then
    if cImm4spn p = 0#8 then .error (.reservedParcel p) else .ok (.cAddi4spn (cRs2' p) (cImm4spn p))
  else if cFunct3 p = 2#3 then .ok (.cLw (cRs2' p) (cRs1' p) (cImmLw p))
  else if cFunct3 p = 6#3 then .ok (.cSw (cRs1' p) (cRs2' p) (cImmLw p))
  else .error (.reservedParcel p)

/-- Quadrant 1 with funct3 = 100 (R163). -/
def decodeQ1Alu (p : BitVec 16) : Except DecodeReject Instr :=
  if cFunct2 p = 0#2 then
    if cBit12 p = 0#1 then .ok (.cSrli (cRs1' p) (cShamt p)) else .error (.reservedParcel p)
  else if cFunct2 p = 1#2 then
    if cBit12 p = 0#1 then .ok (.cSrai (cRs1' p) (cShamt p)) else .error (.reservedParcel p)
  else if cFunct2 p = 2#2 then .ok (.cAndi (cRs1' p) (cImm6 p))
  else if cBit12 p = 1#1 then .error (.reservedParcel p)
  else if cFunct2' p = 0#2 then .ok (.cSub (cRs1' p) (cRs2' p))
  else if cFunct2' p = 1#2 then .ok (.cXor (cRs1' p) (cRs2' p))
  else if cFunct2' p = 2#2 then .ok (.cOr (cRs1' p) (cRs2' p))
  else .ok (.cAnd (cRs1' p) (cRs2' p))

/-- Quadrant 1 (R163). -/
def decodeQ1 (p : BitVec 16) : Except DecodeReject Instr :=
  if cFunct3 p = 0#3 then
    if cRd p = 0#5 then .ok (.cNop (cImm6 p)) else .ok (.cAddi (cRd p) (cImm6 p))
  else if cFunct3 p = 1#3 then .ok (.cJal (cImmJ p))
  else if cFunct3 p = 2#3 then .ok (.cLi (cRd p) (cImm6 p))
  else if cFunct3 p = 3#3 then
    if cImm6 p = 0#6 then .error (.reservedParcel p)
    else if cRd p = 2#5 then .ok (.cAddi16sp (cImm16sp p))
    else .ok (.cLui (cRd p) (cImm6 p))
  else if cFunct3 p = 4#3 then decodeQ1Alu p
  else if cFunct3 p = 5#3 then .ok (.cJ (cImmJ p))
  else if cFunct3 p = 6#3 then .ok (.cBeqz (cRs1' p) (cImmB p))
  else .ok (.cBnez (cRs1' p) (cImmB p))

/-- Quadrant 2 with funct3 = 100 (R164). -/
def decodeQ2Cr (p : BitVec 16) : Except DecodeReject Instr :=
  if cBit12 p = 0#1 then
    if cRs2 p = 0#5 then
      if cRd p = 0#5 then .error (.reservedParcel p) else .ok (.cJr (cRd p))
    else .ok (.cMv (cRd p) (cRs2 p))
  else if cRs2 p = 0#5 then
    if cRd p = 0#5 then .ok .cEbreak else .ok (.cJalr (cRd p))
  else .ok (.cAdd (cRd p) (cRs2 p))

/-- Quadrant 2 (R164). -/
def decodeQ2 (p : BitVec 16) : Except DecodeReject Instr :=
  if cFunct3 p = 0#3 then
    if cBit12 p = 0#1 then .ok (.cSlli (cRd p) (cShamt p)) else .error (.reservedParcel p)
  else if cFunct3 p = 2#3 then
    if cRd p = 0#5 then .error (.reservedParcel p) else .ok (.cLwsp (cRd p) (cImmLwsp p))
  else if cFunct3 p = 4#3 then decodeQ2Cr p
  else if cFunct3 p = 6#3 then .ok (.cSwsp (cRs2 p) (cImmSwsp p))
  else .error (.reservedParcel p)

/-- The 16-bit decoder: the quadrant is `op`; op = 11 is no 16-bit instruction (R141). -/
def decodeHalf (p : BitVec 16) : Except DecodeReject Instr :=
  if cOp p = 0#2 then decodeQ0 p
  else if cOp p = 1#2 then decodeQ1 p
  else if cOp p = 2#2 then decodeQ2 p
  else .error (.reservedParcel p)

/-- R150, steps 3 and 4, on a fetched instruction. -/
def decode : InstrBits → Except DecodeReject Instr
  | .half p => decodeHalf p
  | .full w => decodeFull w

/-- R141: does the first parcel begin a 32-bit instruction. -/
def parcelIsFull (lo : BitVec 16) : Bool := decide (cOp lo = 3#2)

/-- The instruction that a first parcel and the parcel after it make (R141, R106). -/
def instrBitsOf (lo hi : BitVec 16) : InstrBits :=
  if parcelIsFull lo then .full (hi ++ lo) else .half lo

/-- The parcel that two bytes in memory order make (R106). -/
def parcelOf (b0 b1 : Byte) : BitVec 16 := b1 ++ b0

/-- Decoding a list of bytes in memory order: the instruction and the bytes after it. -/
def decodeBytes : List Byte → Except DecodeReject (Instr × List Byte)
  | b0 :: b1 :: rest =>
    if parcelIsFull (parcelOf b0 b1) then
      match rest with
      | b2 :: b3 :: rest' =>
        match decodeFull (parcelOf b2 b3 ++ parcelOf b0 b1) with
        | .ok i => .ok (i, rest')
        | .error e => .error e
      | _ => .error .truncated
    else
      match decodeHalf (parcelOf b0 b1) with
      | .ok i => .ok (i, rest)
      | .error e => .error e
  | _ => .error .truncated

/-! ### The encoder (R142, R146..R148, R159, R162..R164) -/

def encR (f7 : BitVec 7) (rs2 rs1 : Reg) (f3 : BitVec 3) (rd : Reg) (op : BitVec 7) : InstrBits :=
  .full (f7 ++ rs2 ++ rs1 ++ f3 ++ rd ++ op)

def encI (imm : BitVec 12) (rs1 : Reg) (f3 : BitVec 3) (rd : Reg) (op : BitVec 7) : InstrBits :=
  .full (imm ++ rs1 ++ f3 ++ rd ++ op)

def encS (imm : BitVec 12) (rs2 rs1 : Reg) (f3 : BitVec 3) (op : BitVec 7) : InstrBits :=
  .full (imm.extractLsb' 5 7 ++ rs2 ++ rs1 ++ f3 ++ imm.extractLsb' 0 5 ++ op)

/-- `imm` holds imm[12:1], so bit k of the format's immediate is bit k - 1 here. -/
def encB (imm : BitVec 12) (rs2 rs1 : Reg) (f3 : BitVec 3) (op : BitVec 7) : InstrBits :=
  .full (imm.extractLsb' 11 1 ++ imm.extractLsb' 4 6 ++ rs2 ++ rs1 ++ f3 ++ imm.extractLsb' 0 4
    ++ imm.extractLsb' 10 1 ++ op)

def encU (imm : BitVec 20) (rd : Reg) (op : BitVec 7) : InstrBits := .full (imm ++ rd ++ op)

/-- `imm` holds imm[20:1]. -/
def encJ (imm : BitVec 20) (rd : Reg) (op : BitVec 7) : InstrBits :=
  .full (imm.extractLsb' 19 1 ++ imm.extractLsb' 0 10 ++ imm.extractLsb' 10 1 ++ imm.extractLsb' 11 8 ++ rd ++ op)

/-- FENCE (R143, R146): fm, pred, succ in the place of imm12. -/
def encFence (fm pred succ : BitVec 4) (rs1 rd : Reg) : InstrBits :=
  .full (fm ++ pred ++ succ ++ rs1 ++ 0#3 ++ rd ++ 0x0F#7)

/-- CI: funct3, imm[5], rd, imm[4:0], op. -/
def encCI (f3 : BitVec 3) (imm : BitVec 6) (rd : Reg) (op : BitVec 2) : InstrBits :=
  .half (f3 ++ imm.extractLsb' 5 1 ++ rd ++ imm.extractLsb' 0 5 ++ op)

/-- CR: funct3 and bit 12 are funct4. -/
def encCR (f3 : BitVec 3) (b12 : BitVec 1) (rd rs2 : Reg) (op : BitVec 2) : InstrBits :=
  .half (f3 ++ b12 ++ rd ++ rs2 ++ op)

/-- CL and CS: `imm` holds uimm[6:2]; `r2` is rd' or rs2'. -/
def encCLS (f3 : BitVec 3) (imm : BitVec 5) (rs1 r2 : CReg) : InstrBits :=
  .half (f3 ++ imm.extractLsb' 1 3 ++ rs1 ++ imm.extractLsb' 0 1 ++ imm.extractLsb' 4 1 ++ r2 ++ 0#2)

/-- CIW, C.ADDI4SPN: `imm` holds nzuimm[9:2]. -/
def encCIW (imm : BitVec 8) (rd : CReg) : InstrBits :=
  .half (0#3 ++ imm.extractLsb' 2 2 ++ imm.extractLsb' 4 4 ++ imm.extractLsb' 0 1 ++ imm.extractLsb' 1 1 ++ rd ++ 0#2)

/-- CB with a shift or C.ANDI: bit 12, funct2, rd', bits 6:2. -/
def encCBAlu (b12 : BitVec 1) (f2 : BitVec 2) (rd : CReg) (low : BitVec 5) : InstrBits :=
  .half (4#3 ++ b12 ++ f2 ++ rd ++ low ++ 1#2)

/-- CA: funct6 = 100011, rd', funct2, rs2'. -/
def encCA (f2 : BitVec 2) (rd rs2 : CReg) : InstrBits :=
  .half (4#3 ++ 0#1 ++ 3#2 ++ rd ++ f2 ++ rs2 ++ 1#2)

/-- CJ: `imm` holds offset[11:1]; bits 12, 11, 10:9, 8, 7, 6, 5:3, 2 are offset 11, 4, 9:8, 10, 6, 7, 3:1, 5. -/
def encCJ (f3 : BitVec 3) (imm : BitVec 11) : InstrBits :=
  .half (f3 ++ imm.extractLsb' 10 1 ++ imm.extractLsb' 3 1 ++ imm.extractLsb' 7 2 ++ imm.extractLsb' 9 1
    ++ imm.extractLsb' 5 1 ++ imm.extractLsb' 6 1 ++ imm.extractLsb' 0 3 ++ imm.extractLsb' 4 1 ++ 1#2)

/-- CB branches: `imm` holds offset[8:1]; bits 12, 11:10, 6:5, 4:3, 2 are offset 8, 4:3, 7:6, 2:1, 5. -/
def encCB (f3 : BitVec 3) (rs1 : CReg) (imm : BitVec 8) : InstrBits :=
  .half (f3 ++ imm.extractLsb' 7 1 ++ imm.extractLsb' 2 2 ++ rs1 ++ imm.extractLsb' 5 2 ++ imm.extractLsb' 0 2
    ++ imm.extractLsb' 4 1 ++ 1#2)

/-- C.ADDI16SP: `imm` holds nzimm[9:4]; bits 12, 6, 5, 4:3, 2 are nzimm 9, 4, 6, 8:7, 5. -/
def encC16sp (imm : BitVec 6) : InstrBits :=
  .half (3#3 ++ imm.extractLsb' 5 1 ++ 2#5 ++ imm.extractLsb' 0 1 ++ imm.extractLsb' 2 1 ++ imm.extractLsb' 3 2
    ++ imm.extractLsb' 1 1 ++ 1#2)

/-- C.LWSP: `imm` holds uimm[7:2]; bits 12, 6:4, 3:2 are uimm 5, 4:2, 7:6. -/
def encCLwsp (rd : Reg) (imm : BitVec 6) : InstrBits :=
  .half (2#3 ++ imm.extractLsb' 3 1 ++ rd ++ imm.extractLsb' 0 3 ++ imm.extractLsb' 4 2 ++ 2#2)

/-- CSS, C.SWSP: `imm` holds uimm[7:2]; bits 12:9, 8:7 are uimm 5:2, 7:6. -/
def encCSwsp (rs2 : Reg) (imm : BitVec 6) : InstrBits :=
  .half (6#3 ++ imm.extractLsb' 0 4 ++ imm.extractLsb' 4 2 ++ rs2 ++ 2#2)

/-- The words of a well-formed instruction. -/
def encode : Instr → InstrBits
  | .lui rd imm => encU imm rd 0x37#7
  | .auipc rd imm => encU imm rd 0x17#7
  | .jal rd imm => encJ imm rd 0x6F#7
  | .jalr rd rs1 imm => encI imm rs1 0#3 rd 0x67#7
  | .beq rs1 rs2 imm => encB imm rs2 rs1 0#3 0x63#7
  | .bne rs1 rs2 imm => encB imm rs2 rs1 1#3 0x63#7
  | .blt rs1 rs2 imm => encB imm rs2 rs1 4#3 0x63#7
  | .bge rs1 rs2 imm => encB imm rs2 rs1 5#3 0x63#7
  | .bltu rs1 rs2 imm => encB imm rs2 rs1 6#3 0x63#7
  | .bgeu rs1 rs2 imm => encB imm rs2 rs1 7#3 0x63#7
  | .lb rd rs1 imm => encI imm rs1 0#3 rd 0x03#7
  | .lh rd rs1 imm => encI imm rs1 1#3 rd 0x03#7
  | .lw rd rs1 imm => encI imm rs1 2#3 rd 0x03#7
  | .lbu rd rs1 imm => encI imm rs1 4#3 rd 0x03#7
  | .lhu rd rs1 imm => encI imm rs1 5#3 rd 0x03#7
  | .sb rs1 rs2 imm => encS imm rs2 rs1 0#3 0x23#7
  | .sh rs1 rs2 imm => encS imm rs2 rs1 1#3 0x23#7
  | .sw rs1 rs2 imm => encS imm rs2 rs1 2#3 0x23#7
  | .addi rd rs1 imm => encI imm rs1 0#3 rd 0x13#7
  | .slti rd rs1 imm => encI imm rs1 2#3 rd 0x13#7
  | .sltiu rd rs1 imm => encI imm rs1 3#3 rd 0x13#7
  | .xori rd rs1 imm => encI imm rs1 4#3 rd 0x13#7
  | .ori rd rs1 imm => encI imm rs1 6#3 rd 0x13#7
  | .andi rd rs1 imm => encI imm rs1 7#3 rd 0x13#7
  | .slli rd rs1 shamt => encR 0x00#7 shamt rs1 1#3 rd 0x13#7
  | .srli rd rs1 shamt => encR 0x00#7 shamt rs1 5#3 rd 0x13#7
  | .srai rd rs1 shamt => encR 0x20#7 shamt rs1 5#3 rd 0x13#7
  | .add rd rs1 rs2 => encR 0x00#7 rs2 rs1 0#3 rd 0x33#7
  | .sub rd rs1 rs2 => encR 0x20#7 rs2 rs1 0#3 rd 0x33#7
  | .sll rd rs1 rs2 => encR 0x00#7 rs2 rs1 1#3 rd 0x33#7
  | .slt rd rs1 rs2 => encR 0x00#7 rs2 rs1 2#3 rd 0x33#7
  | .sltu rd rs1 rs2 => encR 0x00#7 rs2 rs1 3#3 rd 0x33#7
  | .xor rd rs1 rs2 => encR 0x00#7 rs2 rs1 4#3 rd 0x33#7
  | .srl rd rs1 rs2 => encR 0x00#7 rs2 rs1 5#3 rd 0x33#7
  | .sra rd rs1 rs2 => encR 0x20#7 rs2 rs1 5#3 rd 0x33#7
  | .or rd rs1 rs2 => encR 0x00#7 rs2 rs1 6#3 rd 0x33#7
  | .and rd rs1 rs2 => encR 0x00#7 rs2 rs1 7#3 rd 0x33#7
  | .fence fm pred succ rs1 rd => encFence fm pred succ rs1 rd
  | .ecall => .full 0x00000073#32
  | .ebreak => .full 0x00100073#32
  | .mul rd rs1 rs2 => encR 0x01#7 rs2 rs1 0#3 rd 0x33#7
  | .mulh rd rs1 rs2 => encR 0x01#7 rs2 rs1 1#3 rd 0x33#7
  | .mulhsu rd rs1 rs2 => encR 0x01#7 rs2 rs1 2#3 rd 0x33#7
  | .mulhu rd rs1 rs2 => encR 0x01#7 rs2 rs1 3#3 rd 0x33#7
  | .div rd rs1 rs2 => encR 0x01#7 rs2 rs1 4#3 rd 0x33#7
  | .divu rd rs1 rs2 => encR 0x01#7 rs2 rs1 5#3 rd 0x33#7
  | .rem rd rs1 rs2 => encR 0x01#7 rs2 rs1 6#3 rd 0x33#7
  | .remu rd rs1 rs2 => encR 0x01#7 rs2 rs1 7#3 rd 0x33#7
  | .csrrw rd rs1 csr => encI csr rs1 1#3 rd 0x73#7
  | .csrrs rd rs1 csr => encI csr rs1 2#3 rd 0x73#7
  | .csrrc rd rs1 csr => encI csr rs1 3#3 rd 0x73#7
  | .csrrwi rd uimm csr => encI csr uimm 5#3 rd 0x73#7
  | .csrrsi rd uimm csr => encI csr uimm 6#3 rd 0x73#7
  | .csrrci rd uimm csr => encI csr uimm 7#3 rd 0x73#7
  | .fenceI rd rs1 imm => encI imm rs1 1#3 rd 0x0F#7
  | .mret => .full 0x30200073#32
  | .wfi => .full 0x10500073#32
  | .dret => .full 0x7B200073#32
  | .cAddi4spn rd imm => encCIW imm rd
  | .cLw rd rs1 imm => encCLS 2#3 imm rs1 rd
  | .cSw rs1 rs2 imm => encCLS 6#3 imm rs1 rs2
  | .cNop imm => encCI 0#3 imm 0#5 1#2
  | .cAddi rd imm => encCI 0#3 imm rd 1#2
  | .cJal imm => encCJ 1#3 imm
  | .cLi rd imm => encCI 2#3 imm rd 1#2
  | .cAddi16sp imm => encC16sp imm
  | .cLui rd imm => encCI 3#3 imm rd 1#2
  | .cSrli rd shamt => encCBAlu 0#1 0#2 rd shamt
  | .cSrai rd shamt => encCBAlu 0#1 1#2 rd shamt
  | .cAndi rd imm => encCBAlu (imm.extractLsb' 5 1) 2#2 rd (imm.extractLsb' 0 5)
  | .cSub rd rs2 => encCA 0#2 rd rs2
  | .cXor rd rs2 => encCA 1#2 rd rs2
  | .cOr rd rs2 => encCA 2#2 rd rs2
  | .cAnd rd rs2 => encCA 3#2 rd rs2
  | .cJ imm => encCJ 5#3 imm
  | .cBeqz rs1 imm => encCB 6#3 rs1 imm
  | .cBnez rs1 imm => encCB 7#3 rs1 imm
  | .cSlli rd shamt => encCR 0#3 0#1 rd shamt 2#2
  | .cLwsp rd imm => encCLwsp rd imm
  | .cJr rs1 => encCR 4#3 0#1 rs1 0#5 2#2
  | .cMv rd rs2 => encCR 4#3 0#1 rd rs2 2#2
  | .cEbreak => .half 0x9002#16
  | .cJalr rs1 => encCR 4#3 1#1 rs1 0#5 2#2
  | .cAdd rd rs2 => encCR 4#3 1#1 rd rs2 2#2
  | .cSwsp rs2 imm => encCSwsp rs2 imm

/-! ### The host's question -/

/-- The four bytes, in memory order, of an instruction whose low `nbits` bits are those of `w` and whose other
bits are 0, numbered as spec/opcode_table.json numbers them (30_encoding R140). -/
def tableBytes (nbits w : Nat) : List Byte := (InstrBits.full (BitVec.ofNat 32 (w % 2 ^ nbits))).bytes

/-- The instruction this decoder reads from an instruction whose bits are `w`. -/
def decodeTableWord (nbits w : Nat) : Option Instr :=
  match decodeBytes (tableBytes nbits w) with
  | .ok (i, _) => some i
  | .error _ => none

end Sys2Proof
end

