-- ==== Sys2Proof/Machine/Operands.lean ====
section
/-! DEFINITION. Operand forms: the value of every immediate of R144 and R161, the compressed register fields of
R160, sign and zero extension of loaded data, and which register fields an instruction uses (44_rv32e R261). -/

namespace Sys2Proof.Machine

open Sys2Proof

/-! ### Immediates of the 32-bit formats (R144) -/

/-- I and S format. -/
def immI (imm : BitVec 12) : Word := imm.signExtend 32

/-- U format: the 20 bits over 12 zeros. -/
def immU (imm : BitVec 20) : Word := imm ++ 0#12

/-- B format: imm[12:1] with a zero below, sign-extended from 13 bits. -/
def immB (imm : BitVec 12) : Word := (imm ++ 0#1).signExtend 32

/-- J format: imm[20:1] with a zero below, sign-extended from 21 bits. -/
def immJ (imm : BitVec 20) : Word := (imm ++ 0#1).signExtend 32

/-- The 5-bit immediate of CSRRWI, CSRRSI, CSRRCI, zero-extended. -/
def immUimm (uimm : BitVec 5) : Word := uimm.setWidth 32

/-! ### Compressed operands (R160, R161) -/

/-- rd', rs1', rs2' name x8..x15. -/
def creg (c : CReg) : Reg := 1#2 ++ c

/-- C.ADDI, C.NOP, C.LI, C.ANDI: sign-extended from 6 bits. -/
def immC6 (imm : BitVec 6) : Word := imm.signExtend 32

/-- C.LUI: nzimm[17:12] over 12 zeros, sign-extended from 18 bits. -/
def immCLui (imm : BitVec 6) : Word := (imm ++ 0#12).signExtend 32

/-- C.ADDI4SPN: nzuimm[9:2], zero-extended. -/
def immC4spn (imm : BitVec 8) : Word := (imm ++ 0#2).setWidth 32

/-- C.ADDI16SP: nzimm[9:4], sign-extended from 10 bits. -/
def immC16sp (imm : BitVec 6) : Word := (imm ++ 0#4).signExtend 32

/-- C.LW, C.SW: uimm[6:2], zero-extended. -/
def immCLw (imm : BitVec 5) : Word := (imm ++ 0#2).setWidth 32

/-- C.LWSP, C.SWSP: uimm[7:2], zero-extended. -/
def immCSp (imm : BitVec 6) : Word := (imm ++ 0#2).setWidth 32

/-- C.JAL, C.J: offset[11:1], sign-extended from 12 bits. -/
def immCJ (imm : BitVec 11) : Word := (imm ++ 0#1).signExtend 32

/-- C.BEQZ, C.BNEZ: offset[8:1], sign-extended from 9 bits. -/
def immCB (imm : BitVec 8) : Word := (imm ++ 0#1).signExtend 32

/-! ### Extension of loaded data (00_scope R9) -/

def sext8 (v : Word) : Word := (v.setWidth 8).signExtend 32
def sext16 (v : Word) : Word := (v.setWidth 16).signExtend 32

/-! ### Bytes and words (20_memory R105) -/

/-- Byte i of a value, byte 0 the least significant. -/
def byteOf (v : Word) (i : Nat) : Byte := v.extractLsb' (8 * i) 8

/-- The value of a list of at most four bytes, the first the least significant. -/
def wordOfBytes : List Byte → Word
  | [] => 0#32
  | b :: rest => (wordOfBytes rest <<< 8) ||| b.setWidth 32

/-! ### Used register fields (44_rv32e R261) -/

/-- The 5-bit register fields an instruction uses. Compressed 3-bit fields and the implicit x0, x1, x2 always
exist and are not listed. -/
def usedRegs : Instr → List Reg
  | .lui rd _ | .auipc rd _ | .jal rd _ => [rd]
  | .jalr rd rs1 _ | .addi rd rs1 _ | .slti rd rs1 _ | .sltiu rd rs1 _ | .xori rd rs1 _ | .ori rd rs1 _
  | .andi rd rs1 _ | .slli rd rs1 _ | .srli rd rs1 _ | .srai rd rs1 _ | .lb rd rs1 _ | .lh rd rs1 _
  | .lw rd rs1 _ | .lbu rd rs1 _ | .lhu rd rs1 _ => [rd, rs1]
  | .beq rs1 rs2 _ | .bne rs1 rs2 _ | .blt rs1 rs2 _ | .bge rs1 rs2 _ | .bltu rs1 rs2 _ | .bgeu rs1 rs2 _
  | .sb rs1 rs2 _ | .sh rs1 rs2 _ | .sw rs1 rs2 _ => [rs1, rs2]
  | .add rd rs1 rs2 | .sub rd rs1 rs2 | .sll rd rs1 rs2 | .slt rd rs1 rs2 | .sltu rd rs1 rs2 | .xor rd rs1 rs2
  | .srl rd rs1 rs2 | .sra rd rs1 rs2 | .or rd rs1 rs2 | .and rd rs1 rs2 | .mul rd rs1 rs2 | .mulh rd rs1 rs2
  | .mulhsu rd rs1 rs2 | .mulhu rd rs1 rs2 | .div rd rs1 rs2 | .divu rd rs1 rs2 | .rem rd rs1 rs2
  | .remu rd rs1 rs2 => [rd, rs1, rs2]
  | .csrrw rd rs1 _ | .csrrs rd rs1 _ | .csrrc rd rs1 _ => [rd, rs1]
  | .csrrwi rd _ _ | .csrrsi rd _ _ | .csrrci rd _ _ => [rd]
  | .fence _ _ _ _ _ | .fenceI _ _ _ | .ecall | .ebreak | .mret | .wfi | .dret => []
  | .cAddi4spn _ _ | .cLw _ _ _ | .cSw _ _ _ | .cSrli _ _ | .cSrai _ _ | .cAndi _ _ | .cSub _ _ | .cXor _ _
  | .cOr _ _ | .cAnd _ _ | .cBeqz _ _ | .cBnez _ _ => []
  | .cAddi rd _ | .cLi rd _ | .cLui rd _ | .cSlli rd _ | .cLwsp rd _ => [rd]
  | .cMv rd rs2 | .cAdd rd rs2 => [rd, rs2]
  | .cJr rs1 | .cJalr rs1 => [rs1]
  | .cSwsp rs2 _ => [rs2]
  | .cNop _ | .cAddi16sp _ | .cJal _ | .cJ _ | .cEbreak => []

/-- R261: under RV32E every used register field has bit 4 clear; under RV32I every register exists. -/
def regsExist (rv32e : Bool) (i : Instr) : Bool := !rv32e || (usedRegs i).all fun r => !r.getLsbD 4

end Sys2Proof.Machine
end

