-- ==== Sys2Proof/Machine/Ops.lean ====
section
/-! DEFINITION. The named operations the meanings are written over: registers, pc, memory and the bus, and taking
and leaving exceptions, interrupts and Debug mode. Each is written once, from the rule its docstring cites. -/

namespace Sys2Proof.Machine

open Sys2Proof

/-- What a meaning answers. -/
abbrev Out := Host.Outcome State Fault Refusal

/-! ### General registers and pc -/

/-- 10_state R21: x0 reads 0. -/
def State.reg (s : State) (r : Reg) : Word :=
  if r = 0#5 then 0#32 else s.regs[r.toNat]'r.isLt

/-- 10_state R21: a write to x0 is discarded. -/
def State.setReg (s : State) (r : Reg) (v : Word) : State :=
  if r = 0#5 then s else { s with regs := s.regs.set r.toNat v r.isLt }

/-- The instruction completes without a trap; the next instruction is at `npc` (10_state R25). -/
def State.retire (s : State) (npc : Word) : State := { s with pc := npc, log := ⟨true, none⟩ }

/-- As `retire`, for a CSR instruction: `written` is the CSR it wrote, if it wrote one (47_zicsr R331). -/
def State.retireCsr (s : State) (npc : Word) (written : Option CsrAddr) : State :=
  { s with pc := npc, log := ⟨true, written⟩ }

/-- Bit 0 cleared: jump targets (41 R213), `mepc` and `dpc` (10_state R41, R52). -/
def evenAddr (a : Word) : Word := a &&& 0xFFFFFFFE#32

/-! ### Memory (20_memory R100) -/

/-- What a byte nothing has been written to reads as (assumption 5: DESIGN CHOICE, unsafe). -/
def Memory.unlisted : Byte := 0#8

/-- The byte at an address. -/
def Memory.readByte : Memory → Nat → Byte
  | [], _ => Memory.unlisted
  | (k, b) :: rest, a => if k = a then b else Memory.readByte rest a

/-- Writing one byte, keeping the canonical form. -/
def Memory.writeByte : Memory → Nat → Byte → Memory
  | [], a, v => if v = Memory.unlisted then [] else [(a, v)]
  | (k, b) :: rest, a, v =>
    if a < k then (if v = Memory.unlisted then (k, b) :: rest else (a, v) :: (k, b) :: rest)
    else if a = k then (if v = Memory.unlisted then rest else (a, v) :: rest)
    else (k, b) :: Memory.writeByte rest a v

/-- Addresses from `lo` on, below 2^32, strictly rising, no entry equal to the unlisted value. -/
def Memory.wfFrom : Nat → Memory → Bool
  | _, [] => true
  | lo, (k, b) :: rest =>
    decide (lo ≤ k) && decide (k < 2 ^ 32) && decide (b ≠ Memory.unlisted) && Memory.wfFrom (k + 1) rest

/-- The canonical form: equal memories are equal lists. -/
def Memory.wf (m : Memory) : Bool := Memory.wfFrom 0 m

/-- The byte of data memory at an address. -/
def State.byteAt (s : State) (a : Word) : Byte := Memory.readByte s.mem a.toNat

/-- 20_memory R127: a byte stored to may still be fetched as what it held before. -/
def noteStale (stale : List Host.Cell) (a : Nat) (old : Byte) : List Host.Cell :=
  if (a, old) ∈ stale then stale else (a, old) :: stale

/-- A store of one byte to plain memory (20_memory R111); with SHARED_IMEM_DMEM the old byte goes stale. -/
def State.storeByte (s : State) (a : Word) (v : Byte) : State :=
  { s with
    mem := Memory.writeByte s.mem a.toNat v
    stale := if s.cfg.sharedImemDmem then noteStale s.stale a.toNat (s.byteAt a) else s.stale }

/-! ### The memory map (20_memory R116, R120, R121) -/

def Region.contains (r : Region) (a : Word) : Bool :=
  decide (r.base.toNat ≤ a.toNat) && decide (a.toNat < r.base.toNat + r.size)

def regionAt (map : List Region) (a : Word) : Option Region := map.find? fun r => Region.contains r a

def canFetch (p : Perms) : Priv → Bool
  | .M => p.fetchM
  | .U => p.fetchU

def canRead (p : Perms) : Priv → Bool
  | .M => p.readM
  | .U => p.readU

def canWrite (p : Perms) : Priv → Bool
  | .M => p.writeM
  | .U => p.writeU

/-- 20_memory R116: the mode of a data access. In Debug mode it is a machine access. -/
def State.effPriv (s : State) : Priv :=
  if s.debugMode then .M
  else if s.mstatus.mprv ∧ s.priv = .M then s.mstatus.mpp
  else s.priv

/-! ### The CLINT's registers as bytes (60_exceptions R387; assumption 18) -/

def Config.clintMsip (c : Config) : Word := c.clintBase + c.clintMsipOff
def Config.clintMtimecmp (c : Config) : Word := c.clintBase + c.clintMtimecmpOff
def Config.clintMtime (c : Config) : Word := c.clintBase + c.clintMtimeOff

/-- Byte k of a 64-bit register replaced. -/
def setByte64 (v : BitVec 64) (k : Nat) (b : Byte) : BitVec 64 :=
  (v &&& ~~~((0xFF#64) <<< (8 * k))) ||| (b.setWidth 64 <<< (8 * k))

/-- The byte of a CLINT register at an address; none where no register lies. `msip` bits 31:1 read 0. -/
def State.clintByte (s : State) (a : Word) : Option Byte :=
  if (a - Config.clintMsip s.cfg).toNat < 4 then
    some (if a = Config.clintMsip s.cfg ∧ s.msip then 1#8 else 0#8)
  else if (a - Config.clintMtimecmp s.cfg).toNat < 8 then
    some (s.mtimecmp.extractLsb' (8 * (a - Config.clintMtimecmp s.cfg).toNat) 8)
  else if (a - Config.clintMtime s.cfg).toNat < 8 then
    some (s.mtime.extractLsb' (8 * (a - Config.clintMtime s.cfg).toNat) 8)
  else none

/-- A write of one byte to the CLINT; only bit 0 of `msip` is implemented. -/
def State.setClintByte (s : State) (a : Word) (v : Byte) : State :=
  if (a - Config.clintMsip s.cfg).toNat < 4 then
    if a = Config.clintMsip s.cfg then { s with msip := v.getLsbD 0 } else s
  else if (a - Config.clintMtimecmp s.cfg).toNat < 8 then
    { s with mtimecmp := setByte64 s.mtimecmp (a - Config.clintMtimecmp s.cfg).toNat v }
  else if (a - Config.clintMtime s.cfg).toNat < 8 then
    { s with mtime := setByte64 s.mtime (a - Config.clintMtime s.cfg).toNat v }
  else s

/-! ### Data accesses (20_memory R108, R110, R111, R113) -/

/-- The widths a data access has (R113). -/
inductive Width where
  | byte
  | half
  | word
deriving DecidableEq, Repr

def Width.bytes : Width → Nat
  | .byte => 1
  | .half => 2
  | .word => 4

/-- One bus transfer of an access: its first byte's address and how many bytes it carries. -/
structure Part where
  addr : Word
  len : Nat
deriving DecidableEq, Repr

/-- R108: the bus transfers of an access, in ascending address order. The rule does not say where "ascending" and
"lowest-addressed" begin in an access that wraps past 0xFFFFFFFF; here the parts follow the effective address, so
that the part at 0x00000000 is the later and higher one (assumption 40: DESIGN CHOICE). -/
def splitAccess (mode : MisalignedSplit) (a : Word) (w : Width) : List Part :=
  match w with
  | .byte => [⟨a, 1⟩]
  | .half =>
    match mode with
    | .twoCycles => if a.extractLsb' 0 2 = 3#2 then [⟨a, 1⟩, ⟨a + 1#32, 1⟩] else [⟨a, 2⟩]
    | .byteHalf => if a.extractLsb' 0 1 = 1#1 then [⟨a, 1⟩, ⟨a + 1#32, 1⟩] else [⟨a, 2⟩]
  | .word =>
    if a.extractLsb' 0 2 = 0#2 then [⟨a, 4⟩]
    else if a.extractLsb' 0 2 = 2#2 then [⟨a, 2⟩, ⟨a + 2#32, 2⟩]
    else
      match mode with
      | .twoCycles =>
        if a.extractLsb' 0 2 = 1#2 then [⟨a, 3⟩, ⟨a + 3#32, 1⟩] else [⟨a, 1⟩, ⟨a + 1#32, 3⟩]
      | .byteHalf => [⟨a, 1⟩, ⟨a + 1#32, 2⟩, ⟨a + 3#32, 1⟩]

/-- The addresses of a transfer's bytes (R104: modulo 2^32). -/
def Part.addrs (p : Part) : List Word := (List.range p.len).map fun i => p.addr + BitVec.ofNat 32 i

/-- What answers a transfer: plain memory, the CLINT, a device, or a bus error (R121). The region of the transfer's
first byte decides (assumption 26). -/
inductive Answer where
  | memory
  | clint
  | device
  | busError
deriving DecidableEq, Repr

/-- The transfer is answered without an error. -/
def Answer.isOk : Answer → Bool
  | .memory | .clint | .device => true
  | .busError => false

/-- What stands behind a region of a kind. -/
def RegionKind.answer : RegionKind → Answer
  | .ram | .rom => .memory
  | .device => .device
  | .clint => .clint

/-- R110, R120: `Region(p.addr, data, read, eff_priv)`. -/
def State.readAnswer (s : State) (p : Part) : Answer :=
  match regionAt s.cfg.memMap p.addr with
  | none => .busError
  | some r => if canRead r.perms s.effPriv then RegionKind.answer r.kind else .busError

/-- R111, R120: `Region(p.addr, data, write, eff_priv)`; `rom` is not writable whatever its permissions. -/
def State.writeAnswer (s : State) (p : Part) : Answer :=
  match regionAt s.cfg.memMap p.addr with
  | none => .busError
  | some r =>
    if canWrite r.perms s.effPriv ∧ r.kind ≠ .rom then RegionKind.answer r.kind else .busError

/-- The byte that a transfer reads at one of its addresses. What a device gives is the host's to say (60_exceptions
R391), and what the CLINT gives where it has no register is not stated: free values (assumptions 16, 18). -/
def State.busByte (s : State) (ans : Answer) (a : Word) : Byte :=
  match ans with
  | .memory | .busError => s.byteAt a
  | .clint => (s.clintByte a).getD (Config.freeClintByte false s.draws a)
  | .device => Config.freeDeviceByte s.device s.draws a

/-- The bytes a transfer reads. -/
def State.partBytes (s : State) (p : Part) : List Byte := p.addrs.map (s.busByte (s.readAnswer p))

/-- R115: a device region is given a transfer. -/
def State.giveDevice (s : State) (d : DeviceAccess) : State := { s with device := d :: s.device }

/-- The action of a transfer of a read that `ans` answers: a device reads its location, once (R110, R115); plain
memory and the CLINT do nothing. -/
def State.readPart (s : State) (ans : Answer) (p : Part) : State :=
  if ans = .device then s.giveDevice (.read p.addr p.len) else s

/-- The transfers `ps` of a read, made in order. -/
def State.readParts (s : State) (ps : List Part) : State := ps.foldl (fun t p => t.readPart (s.readAnswer p) p) s

/-- What a data read gives, with the state its transfers leave: only devices have seen them. -/
inductive ReadResult where
  | value (v : Word) (s : State)
  | busError (addr : Word) (s : State)
deriving DecidableEq, Repr

/-- R110, `MemRead`: the parts in the order of `splitAccess`; the first that cannot be read raises, when the parts
before it have been made (60_exceptions R355); else the value, little-endian and zero-extended to 32 bits. When
several parts fault, the address reported is that of the first in that order (assumption 40 for an access that wraps
past 0xFFFFFFFF). -/
def State.memRead (s : State) (a : Word) (w : Width) : ReadResult :=
  match (splitAccess s.cfg.misalignedSplit a w).find? fun p => !(s.readAnswer p).isOk with
  | some bad =>
    .busError bad.addr
      (s.readParts ((splitAccess s.cfg.misalignedSplit a w).takeWhile fun p => (s.readAnswer p).isOk))
  | none =>
    .value (wordOfBytes ((splitAccess s.cfg.misalignedSplit a w).flatMap s.partBytes))
      (s.readParts (splitAccess s.cfg.misalignedSplit a w))

/-- A store of one byte to the CLINT; nothing where it has no register (assumption 18). As in `storeByte` the old
byte goes stale (20_memory R127). -/
def State.storeClintByte (s : State) (a : Word) (v : Byte) : State :=
  match s.clintByte a with
  | none => s
  | some old =>
    { s.setClintByte a v with stale := if s.cfg.sharedImemDmem then noteStale s.stale a.toNat old else s.stale }

/-- One byte of a write, to plain memory or to the CLINT. -/
def State.writeBusByte (s : State) (ans : Answer) (a : Word) (v : Byte) : State :=
  match ans with
  | .memory => s.storeByte a v
  | .clint => s.storeClintByte a v
  | .device | .busError => s

/-- A transfer of a write of `v` at `a` that `ans` answers: to a device as a whole, once (R115), if `keep` holds of its
address; else each byte for which `keep` holds takes its new value. -/
def State.writePart (s : State) (keep : Word → Bool) (a : Word) (v : Word) (ans : Answer) (p : Part) : State :=
  if ans = .device then
    if keep p.addr then s.giveDevice (.write p.addr (p.addrs.map fun x => byteOf v (x - a).toNat)) else s
  else p.addrs.foldl (fun t x => if keep x then t.writeBusByte ans x (byteOf v (x - a).toNat) else t) s

/-- The transfers `ps` of a write of `v` at `a`, made in order. -/
def State.writeParts (s : State) (keep : Word → Bool) (a : Word) (v : Word) (ps : List Part) : State :=
  ps.foldl (fun t p => t.writePart keep a v (s.writeAnswer p) p) s

/-- What a data write gives; on a bus error the state holds what the non-faulting parts left behind. -/
inductive WriteResult where
  | done (s : State)
  | busError (addr : Word) (s : State)
deriving DecidableEq, Repr

/-- R111, `MemWrite`. When a part faults, each byte of the others is old or new (U2, a free value per byte; a device
has been given its part or not), and the address reported is that of the first faulting part in the order of
`splitAccess` (assumption 40 for an access that wraps past 0xFFFFFFFF). -/
def State.memWrite (s : State) (a : Word) (w : Width) (v : Word) : WriteResult :=
  match (splitAccess s.cfg.misalignedSplit a w).find? fun p => !(s.writeAnswer p).isOk with
  | some bad =>
    .busError bad.addr
      (s.writeParts (Config.freePartial s.draws) a v
        ((splitAccess s.cfg.misalignedSplit a w).filter fun p => (s.writeAnswer p).isOk))
  | none => .done (s.writeParts (fun _ => true) a v (splitAccess s.cfg.misalignedSplit a w))

/-! ### Taking an exception or interrupt (60_exceptions R365..R369, R376) -/

/-- The synchronous causes this hardware produces (R351). -/
inductive Exc where
  | instrAccessFault
  | illegalInstruction
  | breakpoint
  | loadAccessFault
  | storeAccessFault
  | ecallFromU
  | ecallFromM
deriving DecidableEq, Repr

/-- R351. -/
def Exc.code : Exc → Nat
  | .instrAccessFault => 1
  | .illegalInstruction => 2
  | .breakpoint => 3
  | .loadAccessFault => 5
  | .storeAccessFault => 7
  | .ecallFromU => 8
  | .ecallFromM => 11

/-- R367: vectored mode sends an interrupt to BASE + 4 * code; everything else goes to BASE. -/
def trapVector (mtvec : Word) (interrupt : Bool) (code : Nat) : Word :=
  if mtvec.extractLsb' 0 2 = 1#2 ∧ interrupt then (mtvec &&& 0xFFFFFFFC#32) + BitVec.ofNat 32 (4 * code)
  else mtvec &&& 0xFFFFFFFC#32

/-- R365: the Interrupt bit over the code. -/
def causeWord (interrupt : Bool) (code : Nat) : Word :=
  (if interrupt then 0x80000000#32 else 0#32) ||| BitVec.ofNat 32 code

/-- R365, `Trap(interrupt, code, tval, epc)`: the one way into a handler. The trapping instruction does not
retire. -/
def State.trap (s : State) (interrupt : Bool) (code : Nat) (tval epc : Word) : State :=
  { s with
    mepc := evenAddr epc
    mcause := ⟨causeWord interrupt code, false⟩
    mtval := tval
    mstatus := { s.mstatus with mpie := s.mstatus.mie, mie := false, mpp := s.priv }
    priv := .M
    wfiSleep := false
    pc := trapVector s.mtvec interrupt code
    log := StepLog.empty }

/-- 00_scope R9, `raise E(info)`, for the instruction at `epc`; `s` is the state that the instruction leaves
behind (its own, but for the parts of a faulting load or store). Refused where the spec gives no state after it: inside
the NMI handler (R377, U5) and in Debug mode (U30). -/
def State.raise (s : State) (e : Exc) (tval : Word) : Out :=
  if s.debugMode then .refused .exceptionInDebugMode
  else if s.inNmi then .refused .exceptionInNmi
  else .next (s.trap false e.code tval s.pc)

/-- R376: the NMI saves (MPP, MPIE, mepc, mcause) and traps with code 32. -/
def State.takeNmi (s : State) : State :=
  State.trap
    { s with nmiSaved := ⟨s.mstatus.mpp, s.mstatus.mpie, s.mepc, s.mcause⟩, inNmi := true } true 32 0#32 s.pc

/-! ### Return from a trap (49_privileged R346, 60_exceptions R377, R378) -/

/-- R346: `mstatus` after MRET. Inside the NMI handler MPIE and MPP come back from `nmi_saved`; otherwise MPIE
becomes 1 and MPP U. MPRV is cleared when the mode returned to is not M. -/
def State.mstatusAfterMret (s : State) : Mstatus :=
  { s.mstatus with
    mie := s.mstatus.mpie
    mpie := if s.inNmi then s.nmiSaved.mpie else true
    mpp := if s.inNmi then s.nmiSaved.mpp else .U
    mprv := if s.mstatus.mpp = .M then s.mstatus.mprv else false }

/-- R346: the return itself, for the mode that may execute it. It retires. -/
def State.trapReturn (s : State) : State :=
  { s with
    mstatus := s.mstatusAfterMret
    priv := s.mstatus.mpp
    pc := s.mepc
    mepc := if s.inNmi then s.nmiSaved.mepc else s.mepc
    mcause := if s.inNmi then s.nmiSaved.mcause else s.mcause
    inNmi := false
    log := ⟨true, none⟩ }

/-! ### Debug mode (10_state R27, R51, R52; 43 R252; 49 R348; 60 R385) -/

/-- `dcsr.cause` (R51). -/
inductive DebugCause where
  | ebreak
  | trigger
  | haltreq
  | step
deriving DecidableEq, Repr

def DebugCause.code : DebugCause → BitVec 3
  | .ebreak => 1#3
  | .trigger => 2#3
  | .haltreq => 3#3
  | .step => 4#3

/-- R385: pc saved to `dpc`, mode to `dcsr.prv`, cause to `dcsr.cause`; the hart goes on with M privileges at the
platform's address. Not a trap: no machine trap CSR is written. -/
def State.enterDebug (s : State) (cause : DebugCause) (resume : Word) : State :=
  { s with
    debugMode := true
    dcsr := { s.dcsr with cause := cause.code, prv := s.priv }
    dpc := evenAddr resume
    priv := .M
    wfiSleep := false
    pc := s.cfg.debugHaltAddr }

/-- R348: priv from `dcsr.prv`, pc from `dpc`, MPRV cleared when the mode is not M. It retires. -/
def State.debugReturn (s : State) : State :=
  { s with
    debugMode := false
    priv := s.dcsr.prv
    pc := s.dpc
    mstatus := { s.mstatus with mprv := if s.dcsr.prv = .M then s.mstatus.mprv else false }
    log := ⟨true, none⟩ }

/-! ### Shapes of meanings -/

/-- 44_rv32e R261: before it executes, an instruction that uses a register this instance lacks is illegal. -/
def State.checked (s : State) (i : Instr) (k : Out) : Out :=
  if regsExist s.cfg.rv32e i then k else s.raise .illegalInstruction (encode i).toWord

/-- 40 R180: write one register, advance by the instruction's length, retire. -/
def State.writeBack (s : State) (i : Instr) (ilen : Word) (rd : Reg) (v : Word) : Out :=
  s.checked i (.next ((s.setReg rd v).retire (s.pc + ilen)))

/-- An instruction with no effect but the advance of pc: FENCE (42 R239). -/
def State.advance (s : State) (i : Instr) (ilen : Word) : Out :=
  s.checked i (.next (s.retire (s.pc + ilen)))

/-- 41 R212, R213: jump to `target`, link the following address in `rd`. -/
def State.jump (s : State) (i : Instr) (ilen : Word) (rd : Reg) (target : Word) : Out :=
  s.checked i (.next ((s.setReg rd (s.pc + ilen)).retire target))

/-- 41 section 3: to pc + offset if the condition holds, else to the next instruction. -/
def State.branch (s : State) (i : Instr) (ilen : Word) (cond : Bool) (offset : Word) : Out :=
  s.checked i (.next (s.retire (if cond then s.pc + offset else s.pc + ilen)))

/-- 42 R230..R235: read `w` bytes at `ea`, extend, write `rd`; a bus error raises LoadAccessFault and writes
nothing. -/
def State.load (s : State) (i : Instr) (ilen : Word) (rd : Reg) (ea : Word) (w : Width) (ext : Word → Word) : Out :=
  s.checked i
    (match s.memRead ea w with
    | .value v t => .next ((t.setReg rd (ext v)).retire (s.pc + ilen))
    | .busError addr t => t.raise .loadAccessFault addr)

/-- 42 R230, R236..R238: write the low bytes of `v` at `ea`; a bus error raises StoreAccessFault. -/
def State.store (s : State) (i : Instr) (ilen : Word) (ea : Word) (w : Width) (v : Word) : Out :=
  s.checked i
    (match s.memWrite ea w v with
    | .done t => .next (t.retire (s.pc + ilen))
    | .busError addr t => t.raise .storeAccessFault addr)

/-- 43 R252: EBREAK enters Debug mode when the `dcsr` bit of the mode it runs in is set. -/
def State.ebreakEntersDebug (s : State) : Bool :=
  !s.debugMode && (if s.priv = .M then s.dcsr.ebreakm else s.dcsr.ebreaku)

/-- 43 R252: EBREAK enters Debug mode or raises Breakpoint. In Debug mode the spec gives it no meaning of its own and
the exception is refused (U30). -/
def State.breakpoint (s : State) : Out :=
  if s.ebreakEntersDebug then .next { s.enterDebug .ebreak s.pc with log := StepLog.empty }
  else s.raise .breakpoint 0#32

end Sys2Proof.Machine
end

