-- ==== Sys2Proof/Machine/Compressed.lean ====
section
/-! DEFINITION. The compressed instructions (46_c_compressed R280..R309): each does what its
expansion does, but for the length 2 of its pc advance and link (R280). An ill-formed term runs its expansion too; no parcel decodes to one
(assumption 34). -/

namespace Sys2Proof.Machine

open Sys2Proof

/-- R302, R305 with R213: the target of a jump to a register. -/
def State.regTarget (s : State) (rs1 : Reg) : Word := evenAddr (s.reg rs1)

/-- R281. -/
def execCAddi4spn (rd : CReg) (imm : BitVec 8) (s : State) : Out :=
  s.writeBack (.cAddi4spn rd imm) 2#32 (creg rd) (s.reg 2#5 + immC4spn imm)

/-- R282. -/
def execCLw (rd rs1 : CReg) (imm : BitVec 5) (s : State) : Out :=
  s.load (.cLw rd rs1 imm) 2#32 (creg rd) (s.reg (creg rs1) + immCLw imm) .word id

/-- R283. -/
def execCSw (rs1 rs2 : CReg) (imm : BitVec 5) (s : State) : Out :=
  s.store (.cSw rs1 rs2 imm) 2#32 (s.reg (creg rs1) + immCLw imm) .word (s.reg (creg rs2))

/-- R284. -/
def execCNop (imm : BitVec 6) (s : State) : Out :=
  s.advance (.cNop imm) 2#32

/-- R285. -/
def execCAddi (rd : Reg) (imm : BitVec 6) (s : State) : Out :=
  s.writeBack (.cAddi rd imm) 2#32 rd (s.reg rd + immC6 imm)

/-- R286: the link is x1. -/
def execCJal (imm : BitVec 11) (s : State) : Out :=
  s.jump (.cJal imm) 2#32 1#5 (s.pc + immCJ imm)

/-- R287. -/
def execCLi (rd : Reg) (imm : BitVec 6) (s : State) : Out :=
  s.writeBack (.cLi rd imm) 2#32 rd (immC6 imm)

/-- R288. -/
def execCAddi16sp (imm : BitVec 6) (s : State) : Out :=
  s.writeBack (.cAddi16sp imm) 2#32 2#5 (s.reg 2#5 + immC16sp imm)

/-- R289. -/
def execCLui (rd : Reg) (imm : BitVec 6) (s : State) : Out :=
  s.writeBack (.cLui rd imm) 2#32 rd (immCLui imm)

/-- R290. -/
def execCSrli (rd : CReg) (shamt : BitVec 5) (s : State) : Out :=
  s.writeBack (.cSrli rd shamt) 2#32 (creg rd) (s.reg (creg rd) >>> shamt.toNat)

/-- R291. -/
def execCSrai (rd : CReg) (shamt : BitVec 5) (s : State) : Out :=
  s.writeBack (.cSrai rd shamt) 2#32 (creg rd) ((s.reg (creg rd)).sshiftRight shamt.toNat)

/-- R292. -/
def execCAndi (rd : CReg) (imm : BitVec 6) (s : State) : Out :=
  s.writeBack (.cAndi rd imm) 2#32 (creg rd) (s.reg (creg rd) &&& immC6 imm)

/-- R293. -/
def execCSub (rd rs2 : CReg) (s : State) : Out :=
  s.writeBack (.cSub rd rs2) 2#32 (creg rd) (s.reg (creg rd) - s.reg (creg rs2))

/-- R294. -/
def execCXor (rd rs2 : CReg) (s : State) : Out :=
  s.writeBack (.cXor rd rs2) 2#32 (creg rd) (s.reg (creg rd) ^^^ s.reg (creg rs2))

/-- R295. -/
def execCOr (rd rs2 : CReg) (s : State) : Out :=
  s.writeBack (.cOr rd rs2) 2#32 (creg rd) (s.reg (creg rd) ||| s.reg (creg rs2))

/-- R296. -/
def execCAnd (rd rs2 : CReg) (s : State) : Out :=
  s.writeBack (.cAnd rd rs2) 2#32 (creg rd) (s.reg (creg rd) &&& s.reg (creg rs2))

/-- R297. -/
def execCJ (imm : BitVec 11) (s : State) : Out :=
  s.jump (.cJ imm) 2#32 0#5 (s.pc + immCJ imm)

/-- R298. -/
def execCBeqz (rs1 : CReg) (imm : BitVec 8) (s : State) : Out :=
  s.branch (.cBeqz rs1 imm) 2#32 (condEq (s.reg (creg rs1)) 0#32) (immCB imm)

/-- R299. -/
def execCBnez (rs1 : CReg) (imm : BitVec 8) (s : State) : Out :=
  s.branch (.cBnez rs1 imm) 2#32 (!(condEq (s.reg (creg rs1)) 0#32)) (immCB imm)

/-- R300. -/
def execCSlli (rd : Reg) (shamt : BitVec 5) (s : State) : Out :=
  s.writeBack (.cSlli rd shamt) 2#32 rd (s.reg rd <<< shamt.toNat)

/-- R301. -/
def execCLwsp (rd : Reg) (imm : BitVec 6) (s : State) : Out :=
  s.load (.cLwsp rd imm) 2#32 rd (s.reg 2#5 + immCSp imm) .word id

/-- R302. -/
def execCJr (rs1 : Reg) (s : State) : Out :=
  s.jump (.cJr rs1) 2#32 0#5 (s.regTarget rs1)

/-- R303. -/
def execCMv (rd rs2 : Reg) (s : State) : Out :=
  s.writeBack (.cMv rd rs2) 2#32 rd (s.reg rs2)

/-- R304: as EBREAK (43 R252). -/
def execCEbreak (s : State) : Out :=
  s.breakpoint

/-- R305: the link is x1; x[rs1] is read first. -/
def execCJalr (rs1 : Reg) (s : State) : Out :=
  s.jump (.cJalr rs1) 2#32 1#5 (s.regTarget rs1)

/-- R306. -/
def execCAdd (rd rs2 : Reg) (s : State) : Out :=
  s.writeBack (.cAdd rd rs2) 2#32 rd (s.reg rd + s.reg rs2)

/-- R307. -/
def execCSwsp (rs2 : Reg) (imm : BitVec 6) (s : State) : Out :=
  s.store (.cSwsp rs2 imm) 2#32 (s.reg 2#5 + immCSp imm) .word (s.reg rs2)

end Sys2Proof.Machine
end

