-- ==== Sys2Proof/Machine/Compute.lean ====
section
/-! DEFINITION. RV32I computation (40_rv32i_compute R180..R203). -/

namespace Sys2Proof.Machine

open Sys2Proof

/-- A register shift amount is its low 5 bits (R194, R198, R199). -/
def shamtOf (v : Word) : Nat := (v.extractLsb' 0 5).toNat

/-- R181. -/
def execLui (rd : Reg) (imm : BitVec 20) (s : State) : Out :=
  s.writeBack (.lui rd imm) 4#32 rd (immU imm)

/-- R182: relative to the address of this instruction. -/
def execAuipc (rd : Reg) (imm : BitVec 20) (s : State) : Out :=
  s.writeBack (.auipc rd imm) 4#32 rd (s.pc + immU imm)

/-- R183. -/
def execAddi (rd rs1 : Reg) (imm : BitVec 12) (s : State) : Out :=
  s.writeBack (.addi rd rs1 imm) 4#32 rd (s.reg rs1 + immI imm)

/-- R184. -/
def execSlti (rd rs1 : Reg) (imm : BitVec 12) (s : State) : Out :=
  s.writeBack (.slti rd rs1 imm) 4#32 rd (boolWord (ltS (s.reg rs1) (immI imm)))

/-- R185. -/
def execSltiu (rd rs1 : Reg) (imm : BitVec 12) (s : State) : Out :=
  s.writeBack (.sltiu rd rs1 imm) 4#32 rd (boolWord (ltU (s.reg rs1) (immI imm)))

/-- R186. -/
def execXori (rd rs1 : Reg) (imm : BitVec 12) (s : State) : Out :=
  s.writeBack (.xori rd rs1 imm) 4#32 rd (s.reg rs1 ^^^ immI imm)

/-- R187. -/
def execOri (rd rs1 : Reg) (imm : BitVec 12) (s : State) : Out :=
  s.writeBack (.ori rd rs1 imm) 4#32 rd (s.reg rs1 ||| immI imm)

/-- R188. -/
def execAndi (rd rs1 : Reg) (imm : BitVec 12) (s : State) : Out :=
  s.writeBack (.andi rd rs1 imm) 4#32 rd (s.reg rs1 &&& immI imm)

/-- R189. -/
def execSlli (rd rs1 : Reg) (shamt : BitVec 5) (s : State) : Out :=
  s.writeBack (.slli rd rs1 shamt) 4#32 rd (s.reg rs1 <<< shamt.toNat)

/-- R190. -/
def execSrli (rd rs1 : Reg) (shamt : BitVec 5) (s : State) : Out :=
  s.writeBack (.srli rd rs1 shamt) 4#32 rd (s.reg rs1 >>> shamt.toNat)

/-- R191. -/
def execSrai (rd rs1 : Reg) (shamt : BitVec 5) (s : State) : Out :=
  s.writeBack (.srai rd rs1 shamt) 4#32 rd ((s.reg rs1).sshiftRight shamt.toNat)

/-- R192. -/
def execAdd (rd rs1 rs2 : Reg) (s : State) : Out :=
  s.writeBack (.add rd rs1 rs2) 4#32 rd (s.reg rs1 + s.reg rs2)

/-- R193. -/
def execSub (rd rs1 rs2 : Reg) (s : State) : Out :=
  s.writeBack (.sub rd rs1 rs2) 4#32 rd (s.reg rs1 - s.reg rs2)

/-- R194. -/
def execSll (rd rs1 rs2 : Reg) (s : State) : Out :=
  s.writeBack (.sll rd rs1 rs2) 4#32 rd (s.reg rs1 <<< shamtOf (s.reg rs2))

/-- R195. -/
def execSlt (rd rs1 rs2 : Reg) (s : State) : Out :=
  s.writeBack (.slt rd rs1 rs2) 4#32 rd (boolWord (ltS (s.reg rs1) (s.reg rs2)))

/-- R196. -/
def execSltu (rd rs1 rs2 : Reg) (s : State) : Out :=
  s.writeBack (.sltu rd rs1 rs2) 4#32 rd (boolWord (ltU (s.reg rs1) (s.reg rs2)))

/-- R197. -/
def execXor (rd rs1 rs2 : Reg) (s : State) : Out :=
  s.writeBack (.xor rd rs1 rs2) 4#32 rd (s.reg rs1 ^^^ s.reg rs2)

/-- R198. -/
def execSrl (rd rs1 rs2 : Reg) (s : State) : Out :=
  s.writeBack (.srl rd rs1 rs2) 4#32 rd (s.reg rs1 >>> shamtOf (s.reg rs2))

/-- R199. -/
def execSra (rd rs1 rs2 : Reg) (s : State) : Out :=
  s.writeBack (.sra rd rs1 rs2) 4#32 rd ((s.reg rs1).sshiftRight (shamtOf (s.reg rs2)))

/-- R200. -/
def execOr (rd rs1 rs2 : Reg) (s : State) : Out :=
  s.writeBack (.or rd rs1 rs2) 4#32 rd (s.reg rs1 ||| s.reg rs2)

/-- R201. -/
def execAnd (rd rs1 rs2 : Reg) (s : State) : Out :=
  s.writeBack (.and rd rs1 rs2) 4#32 rd (s.reg rs1 &&& s.reg rs2)

end Sys2Proof.Machine
end

