-- ==== Sys2Proof/Machine/Control.lean ====
section
/-! DEFINITION. RV32I control transfer (41_rv32i_control R210..R220). -/

namespace Sys2Proof.Machine

open Sys2Proof

/-- R212. -/
def execJal (rd : Reg) (imm : BitVec 20) (s : State) : Out :=
  s.jump (.jal rd imm) 4#32 rd (s.pc + immJ imm)

/-- R213: bit 0 of the target is cleared; x[rs1] is read before the link is written. -/
def execJalr (rd rs1 : Reg) (imm : BitVec 12) (s : State) : Out :=
  s.jump (.jalr rd rs1 imm) 4#32 rd (evenAddr (s.reg rs1 + immI imm))

/-- R214. -/
def execBeq (rs1 rs2 : Reg) (imm : BitVec 12) (s : State) : Out :=
  s.branch (.beq rs1 rs2 imm) 4#32 (condEq (s.reg rs1) (s.reg rs2)) (immB imm)

/-- R215. -/
def execBne (rs1 rs2 : Reg) (imm : BitVec 12) (s : State) : Out :=
  s.branch (.bne rs1 rs2 imm) 4#32 (!(condEq (s.reg rs1) (s.reg rs2))) (immB imm)

/-- R216. -/
def execBlt (rs1 rs2 : Reg) (imm : BitVec 12) (s : State) : Out :=
  s.branch (.blt rs1 rs2 imm) 4#32 (ltS (s.reg rs1) (s.reg rs2)) (immB imm)

/-- R217. -/
def execBge (rs1 rs2 : Reg) (imm : BitVec 12) (s : State) : Out :=
  s.branch (.bge rs1 rs2 imm) 4#32 (!(ltS (s.reg rs1) (s.reg rs2))) (immB imm)

/-- R218. -/
def execBltu (rs1 rs2 : Reg) (imm : BitVec 12) (s : State) : Out :=
  s.branch (.bltu rs1 rs2 imm) 4#32 (ltU (s.reg rs1) (s.reg rs2)) (immB imm)

/-- R219. -/
def execBgeu (rs1 rs2 : Reg) (imm : BitVec 12) (s : State) : Out :=
  s.branch (.bgeu rs1 rs2 imm) 4#32 (!(ltU (s.reg rs1) (s.reg rs2))) (immB imm)

end Sys2Proof.Machine
end

