-- ==== Sys2Proof/Machine/LoadStore.lean ====
section
/-! DEFINITION. RV32I loads, stores and FENCE (42_rv32i_loadstore_fence R230..R240). -/

namespace Sys2Proof.Machine

open Sys2Proof

/-- R230: the effective address of the loads and stores of 32 bits. -/
def State.effAddr (s : State) (rs1 : Reg) (imm : BitVec 12) : Word := s.reg rs1 + immI imm

/-- R231. -/
def execLb (rd rs1 : Reg) (imm : BitVec 12) (s : State) : Out :=
  s.load (.lb rd rs1 imm) 4#32 rd (s.effAddr rs1 imm) .byte sext8

/-- R232. -/
def execLh (rd rs1 : Reg) (imm : BitVec 12) (s : State) : Out :=
  s.load (.lh rd rs1 imm) 4#32 rd (s.effAddr rs1 imm) .half sext16

/-- R233. -/
def execLw (rd rs1 : Reg) (imm : BitVec 12) (s : State) : Out :=
  s.load (.lw rd rs1 imm) 4#32 rd (s.effAddr rs1 imm) .word id

/-- R234: zero-extended, as `memRead` leaves it. -/
def execLbu (rd rs1 : Reg) (imm : BitVec 12) (s : State) : Out :=
  s.load (.lbu rd rs1 imm) 4#32 rd (s.effAddr rs1 imm) .byte id

/-- R235: zero-extended, as `memRead` leaves it. -/
def execLhu (rd rs1 : Reg) (imm : BitVec 12) (s : State) : Out :=
  s.load (.lhu rd rs1 imm) 4#32 rd (s.effAddr rs1 imm) .half id

/-- R236. -/
def execSb (rs1 rs2 : Reg) (imm : BitVec 12) (s : State) : Out :=
  s.store (.sb rs1 rs2 imm) 4#32 (s.effAddr rs1 imm) .byte (s.reg rs2)

/-- R237. -/
def execSh (rs1 rs2 : Reg) (imm : BitVec 12) (s : State) : Out :=
  s.store (.sh rs1 rs2 imm) 4#32 (s.effAddr rs1 imm) .half (s.reg rs2)

/-- R238. -/
def execSw (rs1 rs2 : Reg) (imm : BitVec 12) (s : State) : Out :=
  s.store (.sw rs1 rs2 imm) 4#32 (s.effAddr rs1 imm) .word (s.reg rs2)

/-- R239: a no-op that retires, whatever its fields (20_memory R125). -/
def execFence (fm pred succ : BitVec 4) (rs1 rd : Reg) (s : State) : Out :=
  s.advance (.fence fm pred succ rs1 rd) 4#32

end Sys2Proof.Machine
end

