-- ==== Sys2Proof/Machine/MulDiv.lean ====
section
/-! DEFINITION. The M extension (45_m_muldiv R265..R274). -/

namespace Sys2Proof.Machine

open Sys2Proof

/-- R266: the low 32 bits of the product. -/
def mulLow (a b : Word) : Word := a * b

/-- R267..R269: bits 63:32 of the exact product of two operands already extended to 64 bits. -/
def mulHigh (a b : BitVec 64) : Word := (a * b).extractLsb' 32 32

/-- R270: toward zero; all ones for a zero divisor; -2^31 / -1 gives -2^31. -/
def divS (a b : Word) : Word :=
  if b = 0#32 then 0xFFFFFFFF#32
  else if a = 0x80000000#32 ∧ b = 0xFFFFFFFF#32 then 0x80000000#32
  else a.sdiv b

/-- R271. -/
def divU (a b : Word) : Word := if b = 0#32 then 0xFFFFFFFF#32 else a.udiv b

/-- R272: the remainder has the dividend's sign; the dividend for a zero divisor. -/
def remS (a b : Word) : Word :=
  if b = 0#32 then a
  else if a = 0x80000000#32 ∧ b = 0xFFFFFFFF#32 then 0#32
  else a.srem b

/-- R273. -/
def remU (a b : Word) : Word := if b = 0#32 then a else a.umod b

/-- R266. -/
def execMul (rd rs1 rs2 : Reg) (s : State) : Out :=
  s.writeBack (.mul rd rs1 rs2) 4#32 rd (mulLow (s.reg rs1) (s.reg rs2))

/-- R267. -/
def execMulh (rd rs1 rs2 : Reg) (s : State) : Out :=
  s.writeBack (.mulh rd rs1 rs2) 4#32 rd (mulHigh ((s.reg rs1).signExtend 64) ((s.reg rs2).signExtend 64))

/-- R268. -/
def execMulhsu (rd rs1 rs2 : Reg) (s : State) : Out :=
  s.writeBack (.mulhsu rd rs1 rs2) 4#32 rd (mulHigh ((s.reg rs1).signExtend 64) ((s.reg rs2).setWidth 64))

/-- R269. -/
def execMulhu (rd rs1 rs2 : Reg) (s : State) : Out :=
  s.writeBack (.mulhu rd rs1 rs2) 4#32 rd (mulHigh ((s.reg rs1).setWidth 64) ((s.reg rs2).setWidth 64))

/-- R270. -/
def execDiv (rd rs1 rs2 : Reg) (s : State) : Out :=
  s.writeBack (.div rd rs1 rs2) 4#32 rd (divS (s.reg rs1) (s.reg rs2))

/-- R271. -/
def execDivu (rd rs1 rs2 : Reg) (s : State) : Out :=
  s.writeBack (.divu rd rs1 rs2) 4#32 rd (divU (s.reg rs1) (s.reg rs2))

/-- R272. -/
def execRem (rd rs1 rs2 : Reg) (s : State) : Out :=
  s.writeBack (.rem rd rs1 rs2) 4#32 rd (remS (s.reg rs1) (s.reg rs2))

/-- R273. -/
def execRemu (rd rs1 rs2 : Reg) (s : State) : Out :=
  s.writeBack (.remu rd rs1 rs2) 4#32 rd (remU (s.reg rs1) (s.reg rs2))

end Sys2Proof.Machine
end

