-- ==== Sys2Proof/Machine/Interrupt.lean ====
section
/-! DEFINITION. The input lines, the pending interrupts, and what a step does before it fetches: sample, wake,
enter Debug mode, take the NMI or an interrupt (60_exceptions R370..R376, 49_privileged R347). -/

namespace Sys2Proof.Machine

open Sys2Proof

/-! ### Pending and enabled (10_state R44, 60 R371, R373, R374) -/

/-- 10_state R44: the value of `mip`, the lines of this step. -/
def State.mip (s : State) : Word :=
  (s.lines.custom &&& s.cfg.customIrqMask) ++
    ((if s.lines.software then 0x0008#16 else 0#16) ||| (if s.lines.timer then 0x0080#16 else 0#16)
      ||| (if s.lines.external then 0x0800#16 else 0#16))

/-- R374: interrupt numbers, highest priority first. -/
def interruptOrder : List Nat := [16, 17, 18, 19, 20, 21, 22, 23, 24, 25, 26, 27, 28, 29, 30, 31, 11, 3, 7]

/-- The interrupt of highest priority among those pending and enabled in `mie`. -/
def State.pendingInterrupt (s : State) : Option Nat :=
  interruptOrder.find? fun n => (s.mip &&& s.mie).getLsbD n

/-- R373: interrupts are globally enabled. -/
def State.interruptsEnabled (s : State) : Bool := decide (s.priv = .U) || s.mstatus.mie

/-- R347: what ends a WFI sleep. -/
def State.wakes (s : State) : Bool := s.lines.nmi || s.lines.debugReq || decide (s.mip &&& s.mie ≠ 0#32)

/-! ### What the environment does at a step (00_scope R12; 60 R372, R387, R391; assumptions 12, 15, 29) -/

/-- R391: the environment's part in this step. When no input is left the lines keep their values. -/
def State.input (s : State) : Input := s.inputs.headD ⟨s.lines, [], false⟩

/-- Where another agent's write of a byte goes: `ram` or the CLINT. Anywhere else it is nothing the hart could see. -/
def State.agentAnswer (s : State) (a : Word) : Answer :=
  match regionAt s.cfg.memMap a with
  | none => .busError
  | some r => if r.kind = .rom then .busError else RegionKind.answer r.kind

/-- 20_memory R124, R127: the bytes that other agents write before the hart's step, in order; a byte they replace may
still be fetched. -/
def State.agentWrites (s : State) : State :=
  s.input.writes.foldl (fun t w => t.writeBusByte (t.agentAnswer w.1) w.1 w.2) s

/-- The memory map has a CLINT, so that the CLINT drives the software and timer lines. -/
def Config.hasClint (c : Config) : Bool := c.memMap.any fun r => decide (r.kind = .clint)

/-- R387: a line the CLINT drives takes up its value after a delay nothing bounds (U14). -/
def State.settled (s : State) (timer : Bool) (old new : Bool) : Bool :=
  if Config.freeLineSettles timer s.draws then new else old

/-- The lines as the environment drives them at this step; the CLINT's two as R387 says. -/
def State.sampledLines (s : State) : Lines :=
  if Config.hasClint s.cfg then
    { s.input.lines with
      software := s.settled false s.lines.software s.msip
      timer := s.settled true s.lines.timer (decide (s.mtimecmp.toNat ≤ s.mtime.toNat)) }
  else s.input.lines

/-- A step begins: other agents have written, the lines are sampled and nothing has happened in it yet. -/
def State.beginStep (s : State) : State :=
  { s.agentWrites with
    lines := s.sampledLines, inputs := s.inputs.tail, log := StepLog.empty }

/-- R347: the hart is asleep and nothing wakes it at this step. -/
def State.staysAsleep (s : State) : Bool := s.wfiSleep && !s.wakes

/-- R347: the sleep is over. -/
def State.awake (s : State) : State := { s with wfiSleep := false }

/-! ### What comes before the instruction at pc (60 R372, R385; assumption 21) -/

/-- The first trigger whose `execute` bit is set and whose address is pc (10_state R46, R47). -/
def State.triggerHit (s : State) : Bool := s.triggers.any fun t => t.execute && decide (t.address = s.pc)

/-- During a single step with `dcsr.stepie` = 0 maskable interrupts wait (10_state R51; assumption 21). -/
def State.stepMasksInterrupts (s : State) : Bool := s.dcsr.step && !s.dcsr.stepie

/-- R372 and R385: the state after an event that comes before the instruction at pc; none when the instruction is
executed. Outside Debug mode, in this order: a debug request, the NMI, an interrupt, a trigger. -/
def State.preempt (s : State) : Option State :=
  if s.debugMode then none
  else if s.lines.debugReq then some (s.enterDebug .haltreq s.pc)
  else if s.lines.nmi && !s.inNmi then some s.takeNmi
  else
    match s.pendingInterrupt with
    | some n =>
      if s.interruptsEnabled && !s.inNmi && !s.stepMasksInterrupts then some (s.trap true n 0#32 s.pc)
      else if s.triggerHit then some (s.enterDebug .trigger s.pc) else none
    | none => if s.triggerHit then some (s.enterDebug .trigger s.pc) else none

/-- R385: with `dcsr.step` set a step that began and ended outside Debug mode (`s` its start, `t` its end) enters
it (assumption 21). -/
def State.singleStep (s t : State) : State :=
  if s.dcsr.step && !s.debugMode && !t.debugMode then t.enterDebug .step t.pc else t

end Sys2Proof.Machine
end

