-- ==== Sys2Proof/Machine/Privileged.lean ====
section
/-! DEFINITION. MRET, WFI and DRET (49_privileged R346..R348). -/

namespace Sys2Proof.Machine

open Sys2Proof

/-- R346. In Debug mode it is outside the spec (60_exceptions R384, U30). -/
def execMret (s : State) : Out :=
  if s.debugMode then .refused .mretInDebugMode
  else if s.priv = .M then .next s.trapReturn
  else s.raise .illegalInstruction 0x30200073#32

/-- R347: sleeps unless the wake condition already holds, the hart is in Debug mode, or it is being
single-stepped (assumption 24). -/
def State.wfiSleeps (s : State) : Bool := !s.wakes && !s.debugMode && !s.dcsr.step

/-- R347. It retires, asleep or not. -/
def execWfi (s : State) : Out :=
  if s.priv = .U ∧ s.mstatus.tw then s.raise .illegalInstruction 0x10500073#32
  else .next (State.retire { s with wfiSleep := s.wfiSleeps } (s.pc + 4#32))

/-- R348. -/
def execDret (s : State) : Out :=
  if s.debugMode then .next s.debugReturn else s.raise .illegalInstruction 0x7B200073#32

end Sys2Proof.Machine
end

