-- ==== Sys2Proof/Machine/System.lean ====
section
/-! DEFINITION. ECALL and EBREAK (43_rv32i_system R250..R252). -/

namespace Sys2Proof.Machine

open Sys2Proof

/-- R251. -/
def execEcall (s : State) : Out :=
  if s.priv = .U then s.raise .ecallFromU 0#32 else s.raise .ecallFromM 0#32

/-- R252. -/
def execEbreak (s : State) : Out := s.breakpoint

end Sys2Proof.Machine
end

