-- ==== Sys2Proof/Machine/Counters.lean ====
section
/-! DEFINITION. What passes with time at the end of each step: the counters of 10_state R55..R57, R62 and the
CLINT's `mtime` (60_exceptions R387). -/

namespace Sys2Proof.Machine

open Sys2Proof

/-- 10_state R57: counter k + 3 is implemented. -/
def Config.hpmImplemented (c : Config) (k : Nat) : Bool := decide (k < c.hpmNum.val)

/-- R57: the bits below MHPM_COUNTER_WIDTH. -/
def Config.hpmMask (c : Config) : BitVec 64 := BitVec.ofNat 64 (2 ^ c.hpmWidth - 1)

/-- R62 (1): `s` is the step's start, `t` what the step made of it. -/
def State.nextMinstret (s t : State) : BitVec 64 :=
  if t.log.retired ∧ s.mcountinhibit.getLsbD 2 = false ∧ t.log.wroteCsr ≠ some 0xB02#12
      ∧ t.log.wroteCsr ≠ some 0xB82#12 then t.minstret + 1#64
  else t.minstret

/-- R62 (2), with a draw of at least 1 (U11); a step that writes either half does not count (assumption 33). -/
def State.nextMcycle (s t : State) : BitVec 64 :=
  if s.mcountinhibit.getLsbD 0 = false ∧ t.log.wroteCsr ≠ some 0xB00#12 ∧ t.log.wroteCsr ≠ some 0xB80#12 then
    t.mcycle + BitVec.ofNat 64 (1 + Config.freeCycles t.draws)
  else t.mcycle

/-- R62 (3), with a draw of at least 0 (U12), for counter k + 3. -/
def State.nextHpm (s t : State) (k : Nat) (v : BitVec 64) : BitVec 64 :=
  if Config.hpmImplemented s.cfg k ∧ s.mcountinhibit.getLsbD (k + 3) = false then
    (v + BitVec.ofNat 64 (Config.freeEvents k t.draws)) &&& Config.hpmMask s.cfg
  else v

/-- R62: the end of a step. -/
def State.tick (s t : State) : State :=
  { t with
    minstret := s.nextMinstret t
    mcycle := s.nextMcycle t
    hpmcounters := t.hpmcounters.mapIdx fun k v => s.nextHpm t k v
    mtime := t.mtime + BitVec.ofNat 64 (Config.freeTicks t.draws)
    draws := t.draws + 1
    log := StepLog.empty }

end Sys2Proof.Machine
end

