-- ==== Sys2Proof/Machine/Csr.lean ====
section
/-! DEFINITION. The control and status registers: which exist (10_state R32), who may access them (R31), what a
read gives and what a write stores (R34..R61), and the one access operation of the six Zicsr instructions
(47_zicsr R330, R331). -/

namespace Sys2Proof.Machine

open Sys2Proof

/-- 10_state R32: the implemented CSRs; entry k of the three families is number k + 3. -/
inductive Csr where
  | mstatus
  | misa
  | mie
  | mtvec
  | mcountinhibit
  | mhpmevent (k : Fin 10)
  | mscratch
  | mepc
  | mcause
  | mtval
  | mip
  | tselect
  | tdata1
  | tdata2
  | tdata3
  | mcontext
  | scontext
  | dcsr
  | dpc
  | dscratch0
  | dscratch1
  | cpuctrl
  | mcycle
  | minstret
  | mhpmcounter (k : Fin 10)
  | mcycleh
  | minstreth
  | mhpmcounterh (k : Fin 10)
  | cycle
  | instret
  | cycleh
  | instreth
  | mvendorid
  | marchid
  | mimpid
  | mhartid
deriving DecidableEq, Repr

/-! ### Addresses (R32) -/

/-- The addresses that name one register each. -/
def csrSingle (a : CsrAddr) : Option Csr :=
  if a = 0x300#12 then some .mstatus
  else if a = 0x301#12 then some .misa
  else if a = 0x304#12 then some .mie
  else if a = 0x305#12 then some .mtvec
  else if a = 0x320#12 then some .mcountinhibit
  else if a = 0x340#12 then some .mscratch
  else if a = 0x341#12 then some .mepc
  else if a = 0x342#12 then some .mcause
  else if a = 0x343#12 then some .mtval
  else if a = 0x344#12 then some .mip
  else if a = 0x7A0#12 then some .tselect
  else if a = 0x7A1#12 then some .tdata1
  else if a = 0x7A2#12 then some .tdata2
  else if a = 0x7A3#12 then some .tdata3
  else if a = 0x7A8#12 then some .mcontext
  else if a = 0x7AA#12 then some .scontext
  else if a = 0x7B0#12 then some .dcsr
  else if a = 0x7B1#12 then some .dpc
  else if a = 0x7B2#12 then some .dscratch0
  else if a = 0x7B3#12 then some .dscratch1
  else if a = 0x7C0#12 then some .cpuctrl
  else if a = 0xB00#12 then some .mcycle
  else if a = 0xB02#12 then some .minstret
  else if a = 0xB80#12 then some .mcycleh
  else if a = 0xB82#12 then some .minstreth
  else if a = 0xC00#12 then some .cycle
  else if a = 0xC02#12 then some .instret
  else if a = 0xC80#12 then some .cycleh
  else if a = 0xC82#12 then some .instreth
  else if a = 0xF11#12 then some .mvendorid
  else if a = 0xF12#12 then some .marchid
  else if a = 0xF13#12 then some .mimpid
  else if a = 0xF14#12 then some .mhartid
  else none

/-- Which of ten consecutive addresses from `base` on. -/
def familyIndex (base : Nat) (a : CsrAddr) : Option (Fin 10) :=
  if h : base ≤ a.toNat ∧ a.toNat - base < 10 then some ⟨a.toNat - base, h.2⟩ else none

/-- R32, R33: the register an address names; none where no register is. -/
def csrOf (a : CsrAddr) : Option Csr :=
  match familyIndex 0x323 a with
  | some k => some (.mhpmevent k)
  | none =>
    match familyIndex 0xB03 a with
    | some k => some (.mhpmcounter k)
    | none =>
      match familyIndex 0xB83 a with
      | some k => some (.mhpmcounterh k)
      | none => csrSingle a

/-! ### Access checks (R31) -/

/-- R31 (e): the user shadows of the counters. -/
def isUserCounter (a : CsrAddr) : Bool :=
  decide (a = 0xC00#12) || decide (a = 0xC02#12) || decide (a = 0xC80#12) || decide (a = 0xC82#12)

/-- R31 (d): the Debug-mode registers. -/
def isDebugCsr (a : CsrAddr) : Bool := decide (0x7B0 ≤ a.toNat) && decide (a.toNat ≤ 0x7B3)

/-- R31 (b)..(e) for an implemented address: is the access refused. -/
def State.csrDenied (s : State) (a : CsrAddr) (writes : Bool) : Bool :=
  (decide (s.priv = .U) && decide (a.extractLsb' 8 2 ≠ 0#2))
    || (writes && decide (a.extractLsb' 10 2 = 3#2))
    || (isDebugCsr a && !s.debugMode)
    || (isUserCounter a && decide (s.priv = .U) && !s.cfg.uCounterAccess)

/-! ### Layouts -/

/-- R26. -/
def Priv.code : Priv → BitVec 2
  | .M => 3#2
  | .U => 0#2

/-- A bit of a register. -/
def bitAt (n : Nat) (b : Bool) : Word := if b then 1#32 <<< n else 0#32

/-- R34: the value of `mstatus`. -/
def Mstatus.word (m : Mstatus) : Word :=
  bitAt 3 m.mie ||| bitAt 7 m.mpie ||| ((Priv.code m.mpp).setWidth 32 <<< 11) ||| bitAt 17 m.mprv ||| bitAt 21 m.tw

/-- R34, D5: what a write to `mstatus` stores; MPP = 01 or 10 stores M. -/
def Mstatus.ofWord (w : Word) : Mstatus where
  mie := w.getLsbD 3
  mpie := w.getLsbD 7
  mpp := if w.extractLsb' 11 2 = 0#2 then .U else .M
  mprv := w.getLsbD 17
  tw := w.getLsbD 21

/-- R35. -/
def Config.misa (c : Config) : Word := if c.rv32e then 0x40101014#32 else 0x40101104#32

/-- R36: the writable bits of `mie`. -/
def Config.mieMask (c : Config) : Word := c.customIrqMask ++ 0x0888#16

/-- R37: the base that a write to `mtvec` stores, its low MTVEC_BASE_ALIGN (at least 2) bits 0. -/
def Config.mtvecBase (c : Config) (w : Word) : Word := (w >>> max c.mtvecBaseAlign 2) <<< max c.mtvecBaseAlign 2

/-- R37: the mode that a write of `w` stores over the mode of `old`. -/
def Config.mtvecMode (c : Config) (old w : Word) : Word :=
  match c.mtvecModeFixed with
  | .direct => 0#32
  | .vectored => 1#32
  | .free => if w.getLsbD 1 then old &&& 3#32 else w &&& 3#32

/-- R38: the writable bits of `mcountinhibit`. -/
def Config.mcountinhibitMask (c : Config) : Word := 5#32 ||| ((BitVec.ofNat 32 (2 ^ c.hpmNum.val - 1)) <<< 3)

/-- R39. -/
def Config.mhpmevent (c : Config) (k : Fin 10) : Word :=
  if Config.hpmImplemented c k.val then 1#32 <<< (k.val + 3) else 0#32

/-- R42: the values software may write to `mcause` and read back. -/
def Config.mcauseLegal (c : Config) (w : Word) : Bool :=
  if w.getLsbD 31 then
    (w.extractLsb' 0 31 == 3#31) || (w.extractLsb' 0 31 == 7#31) || (w.extractLsb' 0 31 == 11#31)
      || (w.extractLsb' 0 31 == 32#31)
      || (decide (16 ≤ (w.extractLsb' 0 31).toNat) && decide ((w.extractLsb' 0 31).toNat ≤ 31)
          && c.customIrqMask.getLsbD ((w.extractLsb' 0 31).toNat - 16))
  else
    (w == 0#32) || (w == 1#32) || (w == 2#32) || (w == 3#32) || (w == 5#32) || (w == 7#32) || (w == 8#32)
      || (w == 11#32)

/-- R42: what a read of `mcause` gives; after an illegal write it is not stated (U7, assumption 8). -/
def State.readMcause (s : State) : Word :=
  if s.mcause.isOpen then Config.freeMcause s.draws s.mcause.value else s.mcause.value

/-- R45: the selected trigger. -/
def State.selectedTrigger (s : State) : Option Trigger := s.triggers[s.tselect.toNat]?

/-- R46. -/
def State.readTdata1 (s : State) : Word :=
  match s.selectedTrigger with
  | none => 0#32
  | some t => if t.execute then 0x2800104C#32 else 0x28001048#32

/-- R47. -/
def State.readTdata2 (s : State) : Word :=
  match s.selectedTrigger with
  | none => 0#32
  | some t => t.address

/-- R46, R47: only Debug mode changes a trigger. -/
def State.setTrigger (s : State) (f : Trigger → Trigger) : State :=
  if s.debugMode then { s with triggers := s.triggers.modify s.tselect.toNat f } else s

/-- R51: the value of `dcsr`. -/
def Dcsr.word (d : Dcsr) : Word :=
  0x40000000#32 ||| bitAt 15 d.ebreakm ||| bitAt 12 d.ebreaku ||| bitAt 11 d.stepie ||| (d.cause.setWidth 32 <<< 6)
    ||| bitAt 2 d.step ||| (Priv.code d.prv).setWidth 32

/-- R51: `prv` is WARL; what 01 and 10 leave is not stated (assumption 22). -/
def State.dcsrPrv (s : State) (w : Word) : Priv :=
  if w.extractLsb' 0 2 = 3#2 then .M
  else if w.extractLsb' 0 2 = 0#2 then .U
  else if Config.freeDcsrPrvIsM s.draws then .M else .U

/-- R51: what a write to `dcsr` stores; `cause` is read-only. -/
def State.dcsrWritten (s : State) (w : Word) : Dcsr where
  ebreakm := w.getLsbD 15
  ebreaku := w.getLsbD 12
  stepie := w.getLsbD 11
  cause := s.dcsr.cause
  step := w.getLsbD 2
  prv := s.dcsrPrv w

/-- The halves of a 64-bit counter (R55). -/
def lowHalf (v : BitVec 64) : Word := v.extractLsb' 0 32
def highHalf (v : BitVec 64) : Word := v.extractLsb' 32 32

/-- One half replaced, the other unchanged (R55, R56). -/
def setLowHalf (v : BitVec 64) (w : Word) : BitVec 64 := highHalf v ++ w
def setHighHalf (v : BitVec 64) (w : Word) : BitVec 64 := w ++ lowHalf v

/-- R57: the value of event counter k + 3; an unimplemented one reads 0. -/
def State.hpm (s : State) (k : Fin 10) : BitVec 64 :=
  if Config.hpmImplemented s.cfg k.val then s.hpmcounters[k.val] else 0#64

/-- R57: a write to event counter k + 3 keeps the bits below MHPM_COUNTER_WIDTH; an unimplemented one ignores it. -/
def State.setHpm (s : State) (k : Fin 10) (v : BitVec 64) : State :=
  if Config.hpmImplemented s.cfg k.val then
    { s with hpmcounters := s.hpmcounters.set k.val (v &&& Config.hpmMask s.cfg) }
  else s

/-! ### Reading and writing (R34..R61) -/

/-- What a read of a CSR gives. -/
def State.readCsr (s : State) : Csr → Word
  | .mstatus => Mstatus.word s.mstatus
  | .misa => Config.misa s.cfg
  | .mie => s.mie
  | .mtvec => s.mtvec
  | .mcountinhibit => s.mcountinhibit
  | .mhpmevent k => Config.mhpmevent s.cfg k
  | .mscratch => s.mscratch
  | .mepc => s.mepc
  | .mcause => s.readMcause
  | .mtval => s.mtval
  | .mip => s.mip
  | .tselect => s.tselect
  | .tdata1 => s.readTdata1
  | .tdata2 => s.readTdata2
  | .tdata3 => 0#32
  | .mcontext => 0#32
  | .scontext => 0#32
  | .dcsr => Dcsr.word s.dcsr
  | .dpc => s.dpc
  | .dscratch0 => s.dscratch0
  | .dscratch1 => s.dscratch1
  | .cpuctrl => Config.freeCpuctrl s.draws s.cpuctrl
  | .mcycle => lowHalf s.mcycle
  | .minstret => lowHalf s.minstret
  | .mhpmcounter k => lowHalf (s.hpm k)
  | .mcycleh => highHalf s.mcycle
  | .minstreth => highHalf s.minstret
  | .mhpmcounterh k => highHalf (s.hpm k)
  | .cycle => lowHalf s.mcycle
  | .instret => lowHalf s.minstret
  | .cycleh => highHalf s.mcycle
  | .instreth => highHalf s.minstret
  | .mvendorid => s.cfg.mvendorid
  | .marchid => s.cfg.marchid
  | .mimpid => s.cfg.mimpid
  | .mhartid => s.cfg.mhartid

/-- What a write to a CSR leaves: the register's mask and legalisation, or nothing where it ignores writes. A
write to a read-only address never reaches this (R31 c). -/
def State.writeCsr (s : State) (c : Csr) (w : Word) : State :=
  match c with
  | .mstatus => { s with mstatus := Mstatus.ofWord w }
  | .misa => s
  | .mie => { s with mie := w &&& Config.mieMask s.cfg }
  | .mtvec => { s with mtvec := Config.mtvecBase s.cfg w ||| Config.mtvecMode s.cfg s.mtvec w }
  | .mcountinhibit => { s with mcountinhibit := w &&& Config.mcountinhibitMask s.cfg }
  | .mhpmevent _ => s
  | .mscratch => { s with mscratch := w }
  | .mepc => { s with mepc := evenAddr w }
  | .mcause => { s with mcause := ⟨w, !(Config.mcauseLegal s.cfg w)⟩ }
  | .mtval => { s with mtval := w }
  | .mip => s
  | .tselect => if w.toNat < s.cfg.dbgTriggers then { s with tselect := w } else s
  | .tdata1 => s.setTrigger fun t => { t with execute := w.getLsbD 2 }
  | .tdata2 => s.setTrigger fun t => { t with address := w }
  | .tdata3 => s
  | .mcontext => s
  | .scontext => s
  | .dcsr => { s with dcsr := s.dcsrWritten w }
  | .dpc => { s with dpc := evenAddr w }
  | .dscratch0 => { s with dscratch0 := w }
  | .dscratch1 => { s with dscratch1 := w }
  | .cpuctrl => { s with cpuctrl := w }
  | .mcycle => { s with mcycle := setLowHalf s.mcycle w }
  | .minstret => { s with minstret := setLowHalf s.minstret w }
  | .mhpmcounter k => s.setHpm k (setLowHalf (s.hpm k) w)
  | .mcycleh => { s with mcycle := setHighHalf s.mcycle w }
  | .minstreth => { s with minstret := setHighHalf s.minstret w }
  | .mhpmcounterh k => s.setHpm k (setHighHalf (s.hpm k) w)
  | .cycle => s
  | .instret => s
  | .cycleh => s
  | .instreth => s
  | .mvendorid => s
  | .marchid => s
  | .mimpid => s
  | .mhartid => s

/-! ### The access operation (47_zicsr R330, R331) -/

/-- The steps of R330 with the new value as a function of the old: checks, read, write if the instruction writes,
the old value to `rd`, retire. A failed check raises IllegalInstruction with no other effect. -/
def State.csrAccess (s : State) (i : Instr) (rd : Reg) (a : CsrAddr) (writes : Bool) (new : Word → Word) : Out :=
  s.checked i
    (match csrOf a with
    | none => s.raise .illegalInstruction (encode i).toWord
    | some c =>
      if s.csrDenied a writes then s.raise .illegalInstruction (encode i).toWord
      else
        .next
          (State.retireCsr (State.setReg (if writes then s.writeCsr c (new (s.readCsr c)) else s) rd (s.readCsr c))
            (s.pc + 4#32) (if writes then some a else none)))

end Sys2Proof.Machine
end

