-- ==== Sys2Proof/Machine/Zicsr.lean ====
section
/-! DEFINITION. The six CSR instructions (47_zicsr R330..R339), each one use of `csrAccess`:
does it write (R331), and what. -/

namespace Sys2Proof.Machine

open Sys2Proof

/-- R332. -/
def execCsrrw (rd rs1 : Reg) (csr : CsrAddr) (s : State) : Out :=
  s.csrAccess (.csrrw rd rs1 csr) rd csr true (fun _ => s.reg rs1)

/-- R333. -/
def execCsrrs (rd rs1 : Reg) (csr : CsrAddr) (s : State) : Out :=
  s.csrAccess (.csrrs rd rs1 csr) rd csr (decide (rs1 ≠ 0#5)) (fun t => t ||| s.reg rs1)

/-- R334. -/
def execCsrrc (rd rs1 : Reg) (csr : CsrAddr) (s : State) : Out :=
  s.csrAccess (.csrrc rd rs1 csr) rd csr (decide (rs1 ≠ 0#5)) (fun t => t &&& ~~~(s.reg rs1))

/-- R335. -/
def execCsrrwi (rd : Reg) (uimm : BitVec 5) (csr : CsrAddr) (s : State) : Out :=
  s.csrAccess (.csrrwi rd uimm csr) rd csr true (fun _ => immUimm uimm)

/-- R336. -/
def execCsrrsi (rd : Reg) (uimm : BitVec 5) (csr : CsrAddr) (s : State) : Out :=
  s.csrAccess (.csrrsi rd uimm csr) rd csr (decide (uimm ≠ 0#5)) (fun t => t ||| immUimm uimm)

/-- R337. -/
def execCsrrci (rd : Reg) (uimm : BitVec 5) (csr : CsrAddr) (s : State) : Out :=
  s.csrAccess (.csrrci rd uimm csr) rd csr (decide (uimm ≠ 0#5)) (fun t => t &&& ~~~(immUimm uimm))

end Sys2Proof.Machine
end

