-- ==== Sys2Proof/Machine/Zifencei.lean ====
section
/-! DEFINITION. FENCE.I (48_zifencei R343, R344). -/

namespace Sys2Proof.Machine

open Sys2Proof

/-- R343: nothing is stale any more; its register and immediate fields are ignored. -/
def execFenceI (rd rs1 : Reg) (imm : BitVec 12) (s : State) : Out :=
  State.advance { s with stale := [] } (.fenceI rd rs1 imm) 4#32

end Sys2Proof.Machine
end

