-- ==== Sys2Proof/Machine/Fetch.lean ====
section
/-! DEFINITION. Fetching the instruction at pc on the instruction bus (20_memory R103, R109, R112, R120, R127). -/

namespace Sys2Proof.Machine

open Sys2Proof

/-- R103, R120: the map of the instruction bus. -/
def Config.fetchMap (c : Config) : List Region := if c.sharedImemDmem then c.memMap else c.imemMap

/-- R116: the mode of a fetch; in Debug mode it is a machine access. -/
def State.fetchPriv (s : State) : Priv := if s.debugMode then .M else s.priv

/-- R112, R120: what answers the fetch of the parcel at an even address (assumption 26: its first byte decides). -/
def State.fetchAnswer (s : State) (a : Word) : Answer :=
  match regionAt (Config.fetchMap s.cfg) a with
  | none => .busError
  | some r =>
    if canFetch r.perms s.fetchPriv then RegionKind.answer r.kind else .busError

/-- The byte that the instruction bus reads at an address (assumption 18 for the CLINT's addresses without a
register). -/
def State.fetchedByte (s : State) (ans : Answer) (a : Word) : Byte :=
  if ans = .clint then (s.clintByte a).getD (Config.freeClintByte true s.draws a)
  else if s.cfg.sharedImemDmem then s.byteAt a
  else Memory.readByte s.imem a.toNat

/-- R127: the values an address may be fetched as besides its present one. -/
def State.staleAt (s : State) (a : Word) : List Byte :=
  (s.stale.filter fun c => c.1 == a.toNat).map Prod.snd

/-- R127: a byte stored to since the last FENCE.I is fetched as its present value or an old one (U4); any other
byte as what it is. -/
def State.fetchByte (s : State) (ans : Answer) (a : Word) : Byte :=
  match s.staleAt a with
  | [] => s.fetchedByte ans a
  | old :: olds =>
    (s.fetchedByte ans a :: old :: olds).getD (Config.freeStale s.draws a) (s.fetchedByte ans a)

/-- The parcel at an address, two bytes little-endian (R106). -/
def State.fetchParcel (s : State) (a : Word) : BitVec 16 :=
  parcelOf (s.fetchByte (s.fetchAnswer a) a) (s.fetchByte (s.fetchAnswer a) (a + 1#32))

/-- What a fetch gives. -/
inductive FetchResult where
  | bits (b : InstrBits)
  | busError (addr : Word)
  | refused (r : Refusal)
deriving DecidableEq, Repr

/-- How the fetch of a parcel that cannot be carried out ends; none when it can. -/
def State.fetchStop (s : State) (a : Word) : Option FetchResult :=
  match s.fetchAnswer a with
  | .memory | .clint => none
  | .busError => some (.busError a)
  | .device => some (.refused .fetchFromDevice)

/-- R112, `Fetch(a)`: the second parcel only when the first one needs it; an error carries the address of the
parcel it came for. -/
def State.fetchAt (s : State) (a : Word) : FetchResult :=
  match s.fetchStop a with
  | some stop => stop
  | none =>
    if parcelIsFull (s.fetchParcel a) then
      match s.fetchStop (a + 2#32) with
      | some stop => stop
      | none => .bits (.full (s.fetchParcel (a + 2#32) ++ s.fetchParcel a))
    else .bits (.half (s.fetchParcel a))

end Sys2Proof.Machine
end

