-- ==== Sys2Proof/Machine/Reset.lean ====
section
/-! DEFINITION. The reset signal of a running machine (70_reset_and_hazards R400, R403, R404). -/

namespace Sys2Proof.Machine

open Sys2Proof

/-- R400, R404: reset asserted between two steps. Memory, devices, the lines and the configuration stay; the hart and
the CLINT's registers take their reset values. -/
def State.afterReset (s : State) : State :=
  State.resetWith s.cfg s.mem s.imem s.lines s.inputs s.device s.draws

/-- 42 R230, 46 R282, R283, R301, R307: where a load or a store goes and how wide it is. -/
def State.dataAccess (s : State) : Instr → Option (Word × Width)
  | .lb _ rs1 imm | .lbu _ rs1 imm => some (s.effAddr rs1 imm, .byte)
  | .lh _ rs1 imm | .lhu _ rs1 imm => some (s.effAddr rs1 imm, .half)
  | .lw _ rs1 imm => some (s.effAddr rs1 imm, .word)
  | .sb rs1 _ imm => some (s.effAddr rs1 imm, .byte)
  | .sh rs1 _ imm => some (s.effAddr rs1 imm, .half)
  | .sw rs1 _ imm => some (s.effAddr rs1 imm, .word)
  | .cLw _ rs1 imm => some (s.reg (creg rs1) + immCLw imm, .word)
  | .cSw rs1 _ imm => some (s.reg (creg rs1) + immCLw imm, .word)
  | .cLwsp _ imm => some (s.reg 2#5 + immCSp imm, .word)
  | .cSwsp _ imm => some (s.reg 2#5 + immCSp imm, .word)
  | _ => none

/-- 20_memory R108: the data transfers that an instruction makes, in order; none for any but a load or a store. -/
def State.transfersOf (s : State) (i : Instr) : List Part :=
  match s.dataAccess i with
  | some (ea, w) => splitAccess s.cfg.misalignedSplit ea w
  | none => []

/-- The bytes at the listed addresses taken over from `new`. -/
def Memory.takeOver (new : Memory) (addrs : List Word) (old : Memory) : Memory :=
  addrs.foldl (fun m a => Memory.writeByte m a.toNat (Memory.readByte new a.toNat)) old

/-- The transfers that devices were given between `old` and `new`, of which `made` had been made, and those before. -/
def devicesGiven (made : List Part) (new old : List DeviceAccess) : List DeviceAccess :=
  ((new.take (new.length - old.length)).filter fun d => decide (d.addr ∈ made.map Part.addr)) ++ old

/-- R403, U32, 20_memory R108, R114: reset asserted at any time during the step that began in `s` and would have led
to `o`, when the transfers `made` of its access had been made. A transfer is made with all its bytes or not at all; in
memory and in devices the step leaves those made, and nothing else of it survives (assumption 28). -/
def State.resetDuring (s : State) (made : List Part) (o : Out) : State :=
  match o with
  | .next t =>
    State.resetWith s.cfg (Memory.takeOver t.mem (made.flatMap Part.addrs) s.mem) s.imem s.lines s.inputs
      (devicesGiven made t.device s.device) (s.draws + 1)
  | .fault _ | .refused _ => { s.afterReset with draws := s.draws + 1 }

end Sys2Proof.Machine
end

