-- ==== Sys2Proof/Machine/Step.lean ====
section
/-! DEFINITION. One step (00_scope R12, 60_exceptions R372): sample the inputs, sleep or wake, take what comes before
the instruction at pc, else fetch, decode and execute it, and let time pass; or be reset. Its parts stand in
Interrupt.lean, Fetch.lean, Counters.lean, Reset.lean and Ops.lean. -/

namespace Sys2Proof.Machine

open Sys2Proof

/-- R359: the instruction at pc: a fetch error, an illegal word, or its meaning. -/
def State.runInstr (s : State) : Out :=
  if s.pc.getLsbD 0 then .fault .oddPc
  else
    match s.fetchAt s.pc with
    | .busError addr => s.raise .instrAccessFault addr
    | .refused r => .refused r
    | .bits b =>
      match decode b with
      | .error _ => s.raise .illegalInstruction b.toWord
      | .ok i => exec i s

/-- R372: an event that comes before the instruction, or the instruction. -/
def State.runAwake (s : State) : Out :=
  match s.preempt with
  | some t => .next t
  | none => s.runInstr

/-- The end of a step that began in `s` and led to `o` (10_state R62). -/
def State.finish (s : State) (o : Out) : Out :=
  match o with
  | .next t => .next (s.tick (s.singleStep t))
  | .fault r => .fault r
  | .refused r => .refused r

/-- What a step that began in `s` does when reset is not asserted. -/
def State.hartStep (s : State) : Out :=
  if s.staysAsleep then .next (s.tick s) else s.awake.finish s.awake.runAwake

/-- The state in which an exception that U5 or U30 refuses would be taken; accesses are made as in `s` (20_memory
R116). -/
def State.raising (s : State) : State :=
  { s with
    inNmi := false
    debugMode := false
    priv := if s.debugMode then .M else s.priv
    mstatus := if s.debugMode then { s.mstatus with mprv := false } else s.mstatus }

/-- 70_reset R403: the step that a reset interrupts. Where the exception it comes to would be refused, it has made its
accesses before (assumption 28). -/
def State.interrupted (s : State) : Out :=
  match s.hartStep with
  | .next t => .next t
  | .fault r => .fault r
  | .refused _ => s.awake.raising.runInstr

/-- The data transfers of the instruction at pc, in order (20_memory R108). -/
def State.transfers (s : State) : List Part :=
  match s.fetchAt s.pc with
  | .busError _ | .refused _ => []
  | .bits b =>
    match decode b with
    | .error _ => []
    | .ok i => s.transfersOf i

/-- R403, R108: the transfers the hart has made when reset is asserted: the first few of its access, each whole
(R114). -/
def State.transfersMade (s : State) : List Part := s.transfers.take (Config.freeResetCut s.draws)

/-- One step: the hart's own, or the reset that interrupts it. -/
def step (s : State) : Host.Outcome State Fault Refusal :=
  if s.input.reset then .next (s.beginStep.resetDuring s.beginStep.transfersMade s.beginStep.interrupted) else s.beginStep.hartStep

/-! ### Placing an instruction where the next step fetches it (assumption 6) -/

/-- Bytes written from an address on. -/
def placeBytes (m : Memory) (a : Word) : List Byte → Memory
  | [] => m
  | b :: rest => placeBytes (Memory.writeByte m a.toNat b) (a + 1#32) rest

/-- The instruction whose bits are `w` stands at pc, in the memory the instruction bus reads; what was stored there
before is gone, and the hart is awake. -/
def State.withFetchWord (s : State) (nbits w : Nat) : State :=
  if s.cfg.sharedImemDmem then
    { s with
      mem := placeBytes s.mem s.pc (tableBytes nbits w)
      stale := s.stale.filter fun c => decide (4 ≤ (BitVec.ofNat 32 c.1 - s.pc).toNat)
      wfiSleep := false }
  else
    { s with
      imem := placeBytes s.imem s.pc (tableBytes nbits w)
      stale := s.stale.filter fun c => decide (4 ≤ (BitVec.ofNat 32 c.1 - s.pc).toNat)
      wfiSleep := false }

end Sys2Proof.Machine
end

