-- ==== Sys2Proof/Safety.lean ====
section
/-! DEFINITION. The terms the statements are made in: the invariant of the machine, frames, what a trap and a
Debug-mode entry leave, and what makes an access plain memory. Nothing of the machine's behaviour stands here. -/

namespace Sys2Proof.Machine

open Sys2Proof

/-! ### The invariant -/

/-- `mcause` holds a value that trap entry can produce, or is marked as one that it cannot (10_state R42). -/
def McauseOk (c : Config) (m : Mcause) : Prop := m.isOpen = false → Config.mcauseLegal c m.value = true

/-- What every state a step can lead to satisfies, given that the state before did. -/
structure Inv (s : State) : Prop where
  /-- The parameters are as 00_scope R7 asks. -/
  cfg : s.cfg.wf = true
  /-- Memory is in canonical form. -/
  mem : Memory.wf s.mem = true
  imem : Memory.wf s.imem = true
  /-- 10_state R21: x0 is zero in storage too. -/
  x0 : s.regs[0] = 0#32
  /-- R24: bit 0 of pc is 0. -/
  pc : s.pc.getLsbD 0 = false
  /-- R41, R376, R52: bit 0 of the saved addresses is 0. -/
  mepc : s.mepc.getLsbD 0 = false
  savedMepc : s.nmiSaved.mepc.getLsbD 0 = false
  dpc : s.dpc.getLsbD 0 = false
  /-- R36: `mie` within its mask. -/
  mie : s.mie &&& ~~~(Config.mieMask s.cfg) = 0#32
  /-- R37: the trap-vector mode is Direct or Vectored. -/
  mtvec : s.mtvec.getLsbD 1 = false
  /-- R38: `mcountinhibit` within its mask. -/
  mcountinhibit : s.mcountinhibit &&& ~~~(Config.mcountinhibitMask s.cfg) = 0#32
  /-- R42. -/
  mcause : McauseOk s.cfg s.mcause
  savedMcause : McauseOk s.cfg s.nmiSaved.mcause
  /-- R45: `tselect` selects an implemented trigger, or is 0. -/
  tselect : s.tselect = 0#32 ∨ s.tselect.toNat < s.cfg.dbgTriggers
  triggers : s.triggers.length = s.cfg.dbgTriggers
  /-- R57: event counters have no bit at or above MHPM_COUNTER_WIDTH. -/
  hpm : ∀ k : Fin 10, s.hpmcounters[k] &&& ~~~(Config.hpmMask s.cfg) = 0#64
  /-- R27: Debug mode runs with machine privileges, and never asleep (49 R347). -/
  debugPriv : s.debugMode = true → s.priv = .M
  debugAwake : s.debugMode = true → s.wfiSleep = false
  /-- Between steps nothing is logged. -/
  log : s.log = StepLog.empty

/-! ### Frames -/

/-- No byte of data memory reads differently. -/
def SameBytes (s t : State) : Prop := ∀ a : Word, t.byteAt a = s.byteAt a

/-- No general register reads differently. -/
def SameRegs (s t : State) : Prop := ∀ r : Reg, t.reg r = s.reg r

/-- General register `rd` reads `v` (x0 still 0), every other one as before. -/
def OneReg (rd : Reg) (v : Word) (s t : State) : Prop :=
  ∀ r : Reg, t.reg r = if r = rd ∧ r ≠ 0#5 then v else s.reg r

/-- Nothing but general registers, pc and the step's log differs: no CSR, no counter, no memory, no mode. -/
def OnlyRegs (s t : State) : Prop := t = { s with regs := t.regs, pc := t.pc, log := t.log }

/-- As `OnlyRegs`, and no general register differs either. -/
def OnlyPc (s t : State) : Prop := t = { s with pc := t.pc, log := t.log }

/-- Nothing but data memory, what may be stale, pc and the step's log differs. -/
def OnlyMemory (s t : State) : Prop := t = { s with mem := t.mem, stale := t.stale, pc := t.pc, log := t.log }

/-- The instruction retired and wrote no CSR. -/
def Retired (t : State) : Prop := t.log = ⟨true, none⟩

/-- The whole effect of a register-writing instruction: `rd` gets `v`, pc gets `npc`, it retires, nothing else. -/
structure RegEffect (rd : Reg) (v npc : Word) (s t : State) : Prop where
  regs : OneReg rd v s t
  pc : t.pc = npc
  retired : Retired t
  frame : OnlyRegs s t
  bytes : SameBytes s t

/-- The whole effect of an instruction that writes pc alone. -/
structure PcEffect (npc : Word) (s t : State) : Prop where
  regs : SameRegs s t
  pc : t.pc = npc
  retired : Retired t
  frame : OnlyPc s t
  bytes : SameBytes s t

/-- The whole effect of a store of the low `n` bytes of `v` at `ea`. -/
structure StoreEffect (ea : Word) (n : Nat) (v npc : Word) (s t : State) : Prop where
  stored : ∀ i : Nat, i < n → t.byteAt (ea + BitVec.ofNat 32 i) = v.extractLsb' (8 * i) 8
  otherBytes : ∀ a : Word, n ≤ (a - ea).toNat → t.byteAt a = s.byteAt a
  regs : SameRegs s t
  pc : t.pc = npc
  retired : Retired t
  frame : OnlyMemory s t

/-- What `Trap` writes (60_exceptions R365, R367), and that nothing else differs. -/
structure TrapEffect (interrupt : Bool) (code : Nat) (tval epc : Word) (s t : State) : Prop where
  mepc : t.mepc = evenAddr epc
  interruptBit : t.mcause.value.getLsbD 31 = interrupt
  codeField : (t.mcause.value.extractLsb' 0 31).toNat = code
  stated : t.mcause.isOpen = false
  mtval : t.mtval = tval
  mpie : t.mstatus.mpie = s.mstatus.mie
  mie : t.mstatus.mie = false
  mpp : t.mstatus.mpp = s.priv
  mprv : t.mstatus.mprv = s.mstatus.mprv
  tw : t.mstatus.tw = s.mstatus.tw
  priv : t.priv = .M
  awake : t.wfiSleep = false
  pc : t.pc.toNat = (4 * (s.mtvec.toNat / 4)
    + (if s.mtvec.toNat % 4 = 1 ∧ interrupt then 4 * code else 0)) % 2 ^ 32
  notRetired : t.log = StepLog.empty
  regs : SameRegs s t
  bytes : SameBytes s t
  frame : t = { s with mepc := t.mepc, mcause := t.mcause, mtval := t.mtval, mstatus := t.mstatus, priv := t.priv,
                       wfiSleep := t.wfiSleep, pc := t.pc, log := t.log }

/-- What entry to Debug mode writes (60_exceptions R385), and that nothing else differs. -/
structure DebugEntry (cause : Nat) (resume : Word) (s t : State) : Prop where
  debugMode : t.debugMode = true
  priv : t.priv = .M
  pc : t.pc = s.cfg.debugHaltAddr
  dpc : t.dpc = evenAddr resume
  awake : t.wfiSleep = false
  dcsr : t.dcsr = { s.dcsr with cause := BitVec.ofNat 3 cause, prv := s.priv }
  regs : SameRegs s t
  bytes : SameBytes s t
  frame : t = { s with debugMode := t.debugMode, priv := t.priv, pc := t.pc, dpc := t.dpc, wfiSleep := t.wfiSleep,
                       dcsr := t.dcsr, log := t.log }

/-! ### Conditions on state and operands -/

/-- 44_rv32e R261: the register exists on this instance. -/
def RegExists (s : State) (r : Reg) : Prop := s.cfg.rv32e = false ∨ r.toNat < 16

/-- A synchronous exception is taken: not in Debug mode, not inside the NMI handler. -/
def TakesExceptions (s : State) : Prop := s.debugMode = false ∧ s.inNmi = false

/-- 20_memory R116: a data access is made as user: in U-mode, or in M-mode with MPRV set and MPP = U; never in Debug
mode. -/
def State.userData (s : State) : Bool :=
  !s.debugMode && (decide (s.priv = .U) || (s.mstatus.mprv && decide (s.mstatus.mpp = .U)))

/-- R116: a fetch is made as user. -/
def State.userFetch (s : State) : Bool := !s.debugMode && decide (s.priv = .U)

/-- R116, R120: the region permits the operation in the mode the access is made in. -/
def mayRead (s : State) (r : Region) : Bool := if s.userData then r.perms.readU else r.perms.readM
def mayWrite (s : State) (r : Region) : Bool := if s.userData then r.perms.writeU else r.perms.writeM
def mayFetch (s : State) (r : Region) : Bool := if s.userFetch then r.perms.fetchU else r.perms.fetchM

/-- R120, R121: a transfer that begins at this address is answered with an error: the address lies in no region, or in
one that does not permit the operation. Nothing writes to `rom`. -/
def CannotRead (s : State) (a : Word) : Prop := ∀ r, regionAt s.cfg.memMap a = some r → mayRead s r = false
def CannotWrite (s : State) (a : Word) : Prop :=
  ∀ r, regionAt s.cfg.memMap a = some r → mayWrite s r = false ∨ r.kind = .rom
def CannotFetch (s : State) (a : Word) : Prop :=
  ∀ r, regionAt (Config.fetchMap s.cfg) a = some r → mayFetch s r = false

/-- The byte at an address is plain memory that a load may read. -/
def ReadableByte (s : State) (a : Word) : Prop :=
  ∃ r, regionAt s.cfg.memMap a = some r ∧ mayRead s r = true ∧ (r.kind = .ram ∨ r.kind = .rom)

/-- The byte at an address is plain memory that a store may write. -/
def WritableByte (s : State) (a : Word) : Prop :=
  ∃ r, regionAt s.cfg.memMap a = some r ∧ mayWrite s r = true ∧ r.kind = .ram

/-- The address lies in a `device` region. -/
def deviceAt (s : State) (a : Word) : Bool := (regionAt s.cfg.memMap a).any fun r => decide (r.kind = .device)

/-- The `n` bytes from `ea` on, modulo 2^32, are plain memory that a load may read. -/
def Readable (s : State) (ea : Word) (n : Nat) : Prop := ∀ i : Nat, i < n → ReadableByte s (ea + BitVec.ofNat 32 i)

/-- The `n` bytes from `ea` on, modulo 2^32, are plain memory that a store may write. -/
def Writable (s : State) (ea : Word) (n : Nat) : Prop := ∀ i : Nat, i < n → WritableByte s (ea + BitVec.ofNat 32 i)

/-- The little-endian value of the `n` bytes from `ea` on (20_memory R105). -/
def State.bytesValue (s : State) (ea : Word) : Nat → Nat
  | 0 => 0
  | n + 1 => s.bytesValue ea n + 256 ^ n * (s.byteAt (ea + BitVec.ofNat 32 n)).toNat

/-! ### Loads and stores (42 R230..R238, 46 R282, R283, R301, R307) -/

/-- What a load is: where its value goes, its effective address, its width, its length in bytes, and the value it writes
for the little-endian number it reads. -/
structure LoadForm where
  rd : Reg
  ea : Word
  width : Width
  ilen : Word
  result : Nat → Word

/-- What a store is: its effective address, its width, its length in bytes, and the register value whose low bytes it
stores. -/
structure StoreForm where
  ea : Word
  width : Width
  ilen : Word
  value : Word

/-- R230: x[rs1] + sext(imm). -/
def State.baseAddr (s : State) (rs1 : Reg) (imm : BitVec 12) : Word :=
  BitVec.ofInt 32 ((s.reg rs1).toNat + imm.toInt)

/-- R282, R301: x[r] + 4 * uimm. -/
def State.wordAddr (s : State) (r : Reg) (uimm : Nat) : Word := BitVec.ofNat 32 ((s.reg r).toNat + 4 * uimm)

/-- The loads; none for any other instruction. -/
def loadForm (s : State) : Instr → Option LoadForm
  | .lb rd rs1 imm =>
    some ⟨rd, s.baseAddr rs1 imm, .byte, 4#32, fun v => BitVec.ofInt 32 (BitVec.ofNat 8 v).toInt⟩
  | .lh rd rs1 imm =>
    some ⟨rd, s.baseAddr rs1 imm, .half, 4#32, fun v => BitVec.ofInt 32 (BitVec.ofNat 16 v).toInt⟩
  | .lw rd rs1 imm => some ⟨rd, s.baseAddr rs1 imm, .word, 4#32, BitVec.ofNat 32⟩
  | .lbu rd rs1 imm => some ⟨rd, s.baseAddr rs1 imm, .byte, 4#32, BitVec.ofNat 32⟩
  | .lhu rd rs1 imm => some ⟨rd, s.baseAddr rs1 imm, .half, 4#32, BitVec.ofNat 32⟩
  | .cLw rd rs1 imm => some ⟨creg rd, s.wordAddr (creg rs1) imm.toNat, .word, 2#32, BitVec.ofNat 32⟩
  | .cLwsp rd imm => some ⟨rd, s.wordAddr 2#5 imm.toNat, .word, 2#32, BitVec.ofNat 32⟩
  | _ => none

/-- The stores; none for any other instruction. -/
def storeForm (s : State) : Instr → Option StoreForm
  | .sb rs1 rs2 imm => some ⟨s.baseAddr rs1 imm, .byte, 4#32, s.reg rs2⟩
  | .sh rs1 rs2 imm => some ⟨s.baseAddr rs1 imm, .half, 4#32, s.reg rs2⟩
  | .sw rs1 rs2 imm => some ⟨s.baseAddr rs1 imm, .word, 4#32, s.reg rs2⟩
  | .cSw rs1 rs2 imm => some ⟨s.wordAddr (creg rs1) imm.toNat, .word, 2#32, s.reg (creg rs2)⟩
  | .cSwsp rs2 imm => some ⟨s.wordAddr 2#5 imm.toNat, .word, 2#32, s.reg rs2⟩
  | _ => none

/-- Every register the instruction uses exists. -/
def RegsExist (s : State) (i : Instr) : Prop := ∀ r ∈ usedRegs i, RegExists s r

/-- The little-endian number that devices give for the `n` bytes from `ea` on, in this step. -/
def State.deviceValue (s : State) (ea : Word) : Nat → Nat
  | 0 => 0
  | n + 1 =>
    s.deviceValue ea n
      + 256 ^ n * (Config.freeDeviceByte s.device s.draws (ea + BitVec.ofNat 32 n)).toNat

/-- What a device is given of a read, or of a write of `v` at `ea`, by one part. -/
def Part.asRead (p : Part) : DeviceAccess := .read p.addr p.len
def Part.asWrite (ea v : Word) (p : Part) : DeviceAccess :=
  .write p.addr ((List.range p.len).map fun k => v.extractLsb' (8 * ((p.addr - ea).toNat + k)) 8)

/-- The byte at an address is plain memory that can be fetched, and no store has touched it since FENCE.I. -/
def FetchableByte (s : State) (a : Word) : Prop :=
  (∃ r, regionAt (Config.fetchMap s.cfg) a = some r ∧ mayFetch s r = true
    ∧ (r.kind = .ram ∨ r.kind = .rom)) ∧ s.staleAt a = []

/-- The instruction memory's byte at an address (20_memory R103). -/
def State.imemByte (s : State) (a : Word) : Byte :=
  if s.cfg.sharedImemDmem then s.byteAt a else Memory.readByte s.imem a.toNat

/-- The bytes of an instruction stand at pc in plain memory that can be fetched. -/
def StandsAtPc (s : State) (b : InstrBits) : Prop :=
  ∀ i : Nat, i < b.len →
    FetchableByte s (s.pc + BitVec.ofNat 32 i) ∧ b.bytes[i]? = some (s.imemByte (s.pc + BitVec.ofNat 32 i))

/-! ### CSR accesses -/

/-- 10_state R31: the access to an implemented address is allowed. `csr[9:8]` is the lowest privilege, `csr[11:10]` =
0b11 marks a read-only register. -/
def CsrAllowed (s : State) (a : CsrAddr) (writes : Bool) : Prop :=
  (s.priv = .M ∨ a.toNat / 256 % 4 = 0)
    ∧ (writes = true → a.toNat / 1024 % 4 ≠ 3)
    ∧ (s.debugMode = true ∨ a.toNat < 0x7B0 ∨ 0x7B3 < a.toNat)
    ∧ (s.priv = .M ∨ s.cfg.uCounterAccess = true
        ∨ (a ≠ 0xC00#12 ∧ a ≠ 0xC02#12 ∧ a ≠ 0xC80#12 ∧ a ≠ 0xC82#12))

/-- The table of 10_state R32, row by row; mhpm row k is number k + 3. -/
def csrTable : List (Nat × Csr) :=
  [(0x300, .mstatus), (0x301, .misa), (0x304, .mie), (0x305, .mtvec), (0x320, .mcountinhibit),
    (0x323, .mhpmevent 0), (0x324, .mhpmevent 1), (0x325, .mhpmevent 2), (0x326, .mhpmevent 3),
    (0x327, .mhpmevent 4), (0x328, .mhpmevent 5), (0x329, .mhpmevent 6), (0x32A, .mhpmevent 7),
    (0x32B, .mhpmevent 8), (0x32C, .mhpmevent 9), (0x340, .mscratch), (0x341, .mepc), (0x342, .mcause),
    (0x343, .mtval), (0x344, .mip), (0x7A0, .tselect), (0x7A1, .tdata1), (0x7A2, .tdata2), (0x7A3, .tdata3),
    (0x7A8, .mcontext), (0x7AA, .scontext), (0x7B0, .dcsr), (0x7B1, .dpc), (0x7B2, .dscratch0),
    (0x7B3, .dscratch1), (0x7C0, .cpuctrl), (0xB00, .mcycle), (0xB02, .minstret), (0xB03, .mhpmcounter 0),
    (0xB04, .mhpmcounter 1), (0xB05, .mhpmcounter 2), (0xB06, .mhpmcounter 3), (0xB07, .mhpmcounter 4),
    (0xB08, .mhpmcounter 5), (0xB09, .mhpmcounter 6), (0xB0A, .mhpmcounter 7), (0xB0B, .mhpmcounter 8),
    (0xB0C, .mhpmcounter 9), (0xB80, .mcycleh), (0xB82, .minstreth), (0xB83, .mhpmcounterh 0),
    (0xB84, .mhpmcounterh 1), (0xB85, .mhpmcounterh 2), (0xB86, .mhpmcounterh 3), (0xB87, .mhpmcounterh 4),
    (0xB88, .mhpmcounterh 5), (0xB89, .mhpmcounterh 6), (0xB8A, .mhpmcounterh 7), (0xB8B, .mhpmcounterh 8),
    (0xB8C, .mhpmcounterh 9), (0xC00, .cycle), (0xC02, .instret), (0xC80, .cycleh), (0xC82, .instreth),
    (0xF11, .mvendorid), (0xF12, .marchid), (0xF13, .mimpid), (0xF14, .mhartid)]

/-- The whole effect of a CSR instruction: `rd` gets the old value; the register takes `new` (through its mask) when
one is written; pc gets `s.pc + 4`; it retires; nothing else differs. -/
structure CsrEffect (c : Csr) (a : CsrAddr) (rd : Reg) (new : Option Word) (s t : State) : Prop where
  regs : OneReg rd (s.readCsr c) s t
  pc : t.pc = s.pc + 4#32
  log : t.log = ⟨true, if new = none then none else some a⟩
  frame : t = { (match new with
                  | none => s
                  | some w => s.writeCsr c w) with regs := t.regs, pc := t.pc, log := t.log }
  bytes : SameBytes s t

/-- Reading `d` can tell a write to `c`: they are one register, or share storage, or `c` selects what `d` shows
(10_state R45..R47, R58). -/
def Csr.reflects (c d : Csr) : Prop :=
  c = d ∨ (c = .mcycle ∧ d = .cycle) ∨ (c = .mcycleh ∧ d = .cycleh) ∨ (c = .minstret ∧ d = .instret)
    ∨ (c = .minstreth ∧ d = .instreth) ∨ (c = .tselect ∧ (d = .tdata1 ∨ d = .tdata2))

/-! ### Interrupts -/

/-- An interrupt number that 60_exceptions R371 names, the NMI's apart. -/
def IsInterrupt (n : Nat) : Prop := n = 3 ∨ n = 7 ∨ n = 11 ∨ (16 ≤ n ∧ n ≤ 31)

/-- Pending in `mip` and enabled in `mie`. -/
def PendingEnabled (s : State) (n : Nat) : Prop := s.mip.getLsbD n = true ∧ s.mie.getLsbD n = true

/-- 60_exceptions R374: the place of an interrupt in the order of priority, 0 the highest: custom lines ascending,
external, software, timer. -/
def interruptRank (n : Nat) : Nat :=
  if 16 ≤ n then n - 16 else if n = 11 then 16 else if n = 3 then 17 else 18

/-! ### Ends of a run (60_exceptions R390; assumption 25): the machine itself never stops -/

/-- The state after `n` steps, if every one of them has a next state. -/
def State.after (s : State) : Nat → Option State
  | 0 => some s
  | n + 1 =>
    match s.after n with
    | none => none
    | some t =>
      match step t with
      | .next u => some u
      | .fault _ | .refused _ => none

/-- This step takes an interrupt or the NMI. -/
def State.takesInterrupt (s : State) : Prop :=
  s.input.reset = false ∧ s.beginStep.staysAsleep = false
    ∧ (s.beginStep.awake.preempt = some s.beginStep.awake.takeNmi
      ∨ ∃ n, s.beginStep.awake.preempt = some (s.beginStep.awake.trap true n 0#32 s.pc))

/-- This step takes a synchronous exception: its instruction neither retires nor enters Debug mode. -/
def State.takesException (s : State) : Prop :=
  s.input.reset = false ∧ s.beginStep.staysAsleep = false ∧ s.beginStep.awake.preempt = none
    ∧ ∃ u, s.beginStep.awake.runInstr = .next u ∧ u.log.retired = false ∧ u.debugMode = false

/-- R390 (a): the run has reached HALT_ADDR, and this step takes no interrupt. -/
def State.atHaltAddr (s : State) : Prop := s.cfg.haltAddr = some s.pc ∧ ¬s.takesInterrupt

/-- R390 (b): the instruction at pc jumps to itself, and no step from here on, with the lines the environment will
drive, takes an interrupt. -/
def State.selfLoop (s : State) : Prop :=
  (StandsAtPc s.beginStep (.full 0x0000006F#32) ∨ StandsAtPc s.beginStep (.half 0xA001#16))
    ∧ ∀ (n : Nat) (t : State), s.after n = some t → ¬t.takesInterrupt

/-- R390 (c): asleep, and nothing ever wakes the hart. -/
def State.sleepsForEver (s : State) : Prop := ∀ n : Nat, ∃ t, s.after n = some t ∧ t.beginStep.staysAsleep = true

/-- R390 (e): the model declines to go on. That a transfer is never answered (d) has no state here (assumption 31). -/
def State.refuses (s : State) : Prop := ∃ r, Sys2Proof.Machine.step s = .refused r

/-- R390 (f), R381: every step from here on takes a synchronous exception whose handler is the pc itself. -/
def State.trapLoop (s : State) : Prop :=
  ∀ n : Nat, ∃ t, s.after n = some t ∧ t.pc = s.pc ∧ t.takesException

end Sys2Proof.Machine
end

