-- ==== Sys2Proof/Certificates/Slice0/Obligations.lean ====
section
/-! DEFINITION. The statements for the provers. Immediates, shifts, products and quotients are written in `Int` and
`Nat` arithmetic, from the rules; `regs`, frames and trap effects are the terms of Safety.lean. -/

open Sys2Proof Sys2Proof.Machine

/-! ### Encoding -/

/-- Decoding what the encoder writes gives the instruction back, for every well-formed instruction. -/
def Obligations.DecodeEncode : Prop := ∀ i : Instr, i.wellFormed = true → decode (encode i) = .ok i

/-- Encoding what the decoder reads gives the bits back, and what it reads is well-formed: no two words have one
meaning and no bit of a word is dropped (30_encoding R149). -/
def Obligations.EncodeDecode : Prop :=
  ∀ (b : InstrBits) (i : Instr), decode b = .ok i → encode i = b ∧ i.wellFormed = true

/-- One word of each kind of encoding, written out from the tables of 30_encoding R146..R148, R162..R164. -/
def Obligations.SpecWordsDecode : Prop :=
  decode (.full (0b0000000_00010_00001_000_00011_0110011#32)) = .ok (.add 3#5 1#5 2#5)
    ∧ decode (.full (0b111111111111_00000_000_00001_0010011#32)) = .ok (.addi 1#5 0#5 0xFFF#12)
    ∧ decode (.full (0b00010010001101000101_00101_0110111#32)) = .ok (.lui 5#5 0x12345#20)
    ∧ decode (.full (0b0_0000001000_0_00000000_00001_1101111#32)) = .ok (.jal 1#5 8#20)
    ∧ decode (.full (0b0_000000_00010_00001_000_0100_0_1100011#32)) = .ok (.beq 1#5 2#5 4#12)
    ∧ decode (.full (0b0000000_00010_00001_010_00100_0100011#32)) = .ok (.sw 1#5 2#5 4#12)
    ∧ decode (.full (0b0000001_00010_00001_100_00011_0110011#32)) = .ok (.div 3#5 1#5 2#5)
    ∧ decode (.full (0b001101000000_00110_001_00101_1110011#32)) = .ok (.csrrw 5#5 6#5 0x340#12)
    ∧ decode (.full (0b0011000_00010_00000_000_00000_1110011#32)) = .ok .mret
    ∧ decode (.half (0b010_0_01010_00101_01#16)) = .ok (.cLi 10#5 5#6)
    ∧ decode (.half (0b010_001_011_00_010_00#16)) = .ok (.cLw 2#3 3#3 2#5)
    ∧ decode (.half (0b1001_00000_00000_10#16)) = .ok .cEbreak

/-- 30_encoding R145, R156: a 32-bit word whose major opcode is none of the eleven of this hardware is refused. -/
def Obligations.OtherOpcodesRefused : Prop :=
  ∀ w : BitVec 32,
    w.toNat % 128 ∉ [0x37, 0x17, 0x6F, 0x67, 0x63, 0x03, 0x23, 0x13, 0x33, 0x0F, 0x73] →
      ∃ e, decode (.full w) = .error e

/-! ### Reset -/

/-- 70_reset_and_hazards R401: what reset leaves, where the rule gives the value; with any configuration, memory,
lines and inputs. -/
def Obligations.ResetValues : Prop :=
  ∀ (cfg : Config) (mem imem : Memory) (lines : Lines) (inputs : List Input) (device : List DeviceAccess)
    (draws : Nat) (t : State), t = State.resetWith cfg mem imem lines inputs device draws →
      t.pc = cfg.resetPc ∧ t.priv = .M ∧ t.debugMode = false ∧ t.reg 0#5 = 0#32
        ∧ t.mstatus.mie = false ∧ t.mstatus.mprv = false ∧ t.mtvec = cfg.mtvecReset ∧ t.readCsr .mcause = 0#32
        ∧ t.readCsr .misa = (if cfg.rv32e then 0x40101014#32 else 0x40101104#32)
        ∧ t.tselect = 0#32
        ∧ t.readCsr .tdata1 = (if cfg.dbgTriggers = 0 then 0#32 else 0x28001048#32)
        ∧ t.readCsr .dcsr = 0x40000003#32 ∧ t.inNmi = false ∧ t.wfiSleep = false ∧ t.stale = [] ∧ t.msip = false
        ∧ (∀ k : Fin 10, t.readCsr (.mhpmevent k)
            = if k.val < cfg.hpmNum.val then BitVec.ofNat 32 (2 ^ (k.val + 3)) else 0#32)
        ∧ t.readCsr .mvendorid = cfg.mvendorid ∧ t.readCsr .marchid = cfg.marchid ∧ t.readCsr .mimpid = cfg.mimpid
        ∧ t.readCsr .mhartid = cfg.mhartid
        ∧ t.readCsr .tdata3 = 0#32 ∧ t.readCsr .mcontext = 0#32 ∧ t.readCsr .scontext = 0#32
        ∧ t.mem = mem ∧ t.imem = imem ∧ t.lines = lines ∧ t.inputs = inputs ∧ t.device = device ∧ t.cfg = cfg

/-- 70_reset_and_hazards R400, R403, R404, 20_memory R108, R114: a step at which the reset signal is asserted leaves the
reset state over the memory, lines, devices and configuration there are. Of the transfers of the load or store it
interrupts the first few have been made, each with all its bytes, and no other byte or device has seen that step (U32,
assumption 28); an access of one transfer is made wholly or not at all. -/
def Obligations.ResetSignal : Prop :=
  ∀ s : State, s.input.reset = true → Memory.wf s.mem = true →
    (∃ t, Sys2Proof.Machine.step s = .next t
      ∧ t = State.resetWith s.cfg t.mem s.imem s.beginStep.lines s.inputs.tail t.device t.draws
      ∧ Memory.wf t.mem = true
      ∧ (∀ u, s.beginStep.interrupted = .next u → ∃ k : Nat,
          (∀ a : Word, t.byteAt a = if a ∈ (s.beginStep.transfers.take k).flatMap Part.addrs then u.byteAt a
            else s.beginStep.byteAt a)
          ∧ t.device = (u.device.take (u.device.length - s.device.length)).filter
              (fun d => decide (d.addr ∈ (s.beginStep.transfers.take k).map Part.addr)) ++ s.device)
      ∧ ((∀ u, s.beginStep.interrupted ≠ .next u) → SameBytes s.beginStep t ∧ t.device = s.device))
    ∧ ∀ i : Instr, i.wellFormed = true → StandsAtPc s.beginStep (encode i) →
        (∀ f : LoadForm, loadForm s i = some f →
          s.beginStep.transfers = splitAccess s.cfg.misalignedSplit f.ea f.width)
        ∧ (∀ f : StoreForm, storeForm s i = some f →
          s.beginStep.transfers = splitAccess s.cfg.misalignedSplit f.ea f.width)
        ∧ (loadForm s i = none → storeForm s i = none → s.beginStep.transfers = [])

/-- The state after reset, with the model's own values where the rules give none (assumptions 2, 3, 4), satisfies the
invariant. -/
def Obligations.ResetInv : Prop := Inv State.reset

/-! ### Every step -/

/-- Every step keeps the invariant. -/
def Obligations.StepKeepsInv : Prop := ∀ s t : State, Inv s → Sys2Proof.Machine.step s = .next t → Inv t

/-- An awake hart that is not reset, with nothing to do before the instruction at pc, runs the instruction that stands
there: what `exec` answers, and after a next state the single-step entry and the passing of time. -/
def Obligations.StepRunsDecoded : Prop :=
  ∀ (s : State) (i : Instr), s.input.reset = false → s.beginStep.staysAsleep = false →
    s.beginStep.awake.preempt = none → s.pc.getLsbD 0 = false → i.wellFormed = true →
    StandsAtPc s.beginStep (encode i) →
      Sys2Proof.Machine.step s =
        match exec i s.beginStep.awake with
        | .next t => .next (s.beginStep.awake.tick (s.beginStep.awake.singleStep t))
        | .fault r => .fault r
        | .refused r => .refused r

/-- 60_exceptions R353 (1): a word or parcel at pc that no row of the opcode table matches raises
IllegalInstruction, `mtval` the bits. -/
def Obligations.IllegalWordTraps : Prop :=
  ∀ (s : State) (b : InstrBits) (e : DecodeReject), TakesExceptions s → s.pc.getLsbD 0 = false → StandsAtPc s b →
    (match b with
      | .half p => p.toNat % 4 ≠ 3
      | .full w => w.toNat % 4 = 3) →
    decode b = .error e → ∃ t, s.runInstr = .next t ∧ TrapEffect false 2 b.toWord s.pc s t

/-- 60_exceptions R352, 20_memory R112, R116: a parcel of the instruction at pc that lies in no region, or in one that
forbids fetching in the mode of the hart, raises InstrAccessFault with the parcel's address, be it the first or, of a
32-bit instruction, the second. The region of a parcel's first byte decides (assumption 26). -/
def Obligations.FetchFaults : Prop :=
  ∀ s : State, TakesExceptions s → s.pc.getLsbD 0 = false →
    (CannotFetch s s.pc → ∃ t, s.runInstr = .next t ∧ TrapEffect false 1 s.pc s.pc s t)
    ∧ (∀ lo : BitVec 16, StandsAtPc s (.half lo) → lo.toNat % 4 = 3 → CannotFetch s (s.pc + 2#32) →
        ∃ t, s.runInstr = .next t ∧ TrapEffect false 1 (s.pc + 2#32) s.pc s t)

/-- 20_memory R123 (a): a byte reads as what was last stored to it, and storing it changes no other byte; memory stays
in its canonical form. -/
def Obligations.ReadAfterWrite : Prop :=
  ∀ (s : State) (a : Word) (v : Byte), Memory.wf s.mem = true →
    (s.storeByte a v).byteAt a = v ∧ (∀ x : Word, x ≠ a → (s.storeByte a v).byteAt x = s.byteAt x)
      ∧ Memory.wf (s.storeByte a v).mem = true

/-- 00_scope R12, 10_state R44, 20_memory R124, R127, 60_exceptions R372, R387: what a step begins with. The
environment drives the lines; with a CLINT in the map (assumption 12) the software line is `msip` and the timer line
`mtime` >= `mtimecmp`, each after a delay that nothing bounds. Of the bytes that other agents write to an address of
`ram` or of a register of the CLINT the last one is there; a byte of `ram` they replace may still be fetched; every
other byte, and everything else, is as before (assumption 29). -/
def Obligations.StepInputs : Prop :=
  ∀ s : State,
    ((∀ r ∈ s.cfg.memMap, r.kind ≠ .clint) → s.beginStep.lines = s.input.lines)
    ∧ ((∃ r ∈ s.cfg.memMap, r.kind = .clint) →
        s.beginStep.lines =
          { s.input.lines with
            software := if Config.freeLineSettles false s.draws then s.msip else s.lines.software
            timer := if Config.freeLineSettles true s.draws then decide (s.mtimecmp.toNat ≤ s.mtime.toNat)
              else s.lines.timer })
    ∧ (s.inputs = [] → s.input = ⟨s.lines, [], false⟩)
    ∧ (∀ (x : Input) (rest : List Input), s.inputs = x :: rest → s.input = x ∧ s.beginStep.inputs = rest)
    ∧ (∀ a : Word, (∀ w ∈ s.input.writes, w.1 ≠ a) →
        s.beginStep.byteAt a = s.byteAt a ∧ s.beginStep.clintByte a = s.clintByte a
          ∧ s.beginStep.staleAt a = s.staleAt a)
    ∧ (∀ a : Word, (∀ r, regionAt s.cfg.memMap a = some r → r.kind ≠ .ram) → s.beginStep.byteAt a = s.byteAt a)
    ∧ ((∀ w ∈ s.input.writes, ∀ r, regionAt s.cfg.memMap w.1 = some r → r.kind ≠ .clint) →
        s.beginStep.msip = s.msip ∧ s.beginStep.mtimecmp = s.mtimecmp ∧ s.beginStep.mtime = s.mtime)
    ∧ (s.input.writes = [] → s.beginStep.mem = s.mem ∧ s.beginStep.stale = s.stale)
    ∧ (s.cfg.sharedImemDmem = false → s.beginStep.stale = s.stale)
    ∧ (∀ (before after : List (Word × Byte)) (a : Word) (v : Byte) (r : Region),
        s.input.writes = before ++ (a, v) :: after → (∀ w ∈ after, w.1 ≠ a) → regionAt s.cfg.memMap a = some r →
          (r.kind = .ram → Memory.wf s.mem = true →
            s.beginStep.byteAt a = v ∧ (s.cfg.sharedImemDmem = true → s.byteAt a ∈ s.beginStep.staleAt a))
          ∧ (r.kind = .clint → (s.clintByte a).isSome = true →
            s.beginStep.clintByte a
              = some (if (a - Config.clintMsip s.cfg).toNat < 4 then
                  (if a = Config.clintMsip s.cfg then v &&& 1#8 else 0#8) else v)))
    ∧ s.beginStep = { s with mem := s.beginStep.mem, stale := s.beginStep.stale, msip := s.beginStep.msip,
                             mtimecmp := s.beginStep.mtimecmp, mtime := s.beginStep.mtime,
                             lines := s.beginStep.lines, inputs := s.beginStep.inputs, log := StepLog.empty }

/-! ### RV32I computation -/

/-- R192, R193, R197, R200, R201: encoding, result and frame of ADD, SUB, XOR, OR, AND. -/
def Obligations.AddSubLogic : Prop :=
  ∀ (s : State) (rd rs1 rs2 : Reg), RegExists s rd → RegExists s rs1 → RegExists s rs2 →
    (decode (.full (0x00#7 ++ rs2 ++ rs1 ++ 0#3 ++ rd ++ 0x33#7)) = .ok (.add rd rs1 rs2)
      ∧ ∃ t, exec (.add rd rs1 rs2) s = .next t
        ∧ RegEffect rd (BitVec.ofNat 32 ((s.reg rs1).toNat + (s.reg rs2).toNat)) (s.pc + 4#32) s t)
    ∧ (decode (.full (0x20#7 ++ rs2 ++ rs1 ++ 0#3 ++ rd ++ 0x33#7)) = .ok (.sub rd rs1 rs2)
      ∧ ∃ t, exec (.sub rd rs1 rs2) s = .next t
        ∧ RegEffect rd (BitVec.ofInt 32 ((s.reg rs1).toNat - (s.reg rs2).toNat)) (s.pc + 4#32) s t)
    ∧ (decode (.full (0x00#7 ++ rs2 ++ rs1 ++ 4#3 ++ rd ++ 0x33#7)) = .ok (.xor rd rs1 rs2)
      ∧ ∃ t, exec (.xor rd rs1 rs2) s = .next t
        ∧ RegEffect rd (s.reg rs1 ^^^ s.reg rs2) (s.pc + 4#32) s t)
    ∧ (decode (.full (0x00#7 ++ rs2 ++ rs1 ++ 6#3 ++ rd ++ 0x33#7)) = .ok (.or rd rs1 rs2)
      ∧ ∃ t, exec (.or rd rs1 rs2) s = .next t
        ∧ RegEffect rd (s.reg rs1 ||| s.reg rs2) (s.pc + 4#32) s t)
    ∧ (decode (.full (0x00#7 ++ rs2 ++ rs1 ++ 7#3 ++ rd ++ 0x33#7)) = .ok (.and rd rs1 rs2)
      ∧ ∃ t, exec (.and rd rs1 rs2) s = .next t
        ∧ RegEffect rd (s.reg rs1 &&& s.reg rs2) (s.pc + 4#32) s t)

/-- R194..R196, R198, R199: the shift amount is the low five bits; SRA rounds toward minus infinity (R191); the
compares are signed and unsigned. -/
def Obligations.RegisterShiftsCompares : Prop :=
  ∀ (s : State) (rd rs1 rs2 : Reg), RegExists s rd → RegExists s rs1 → RegExists s rs2 →
    (decode (.full (0x00#7 ++ rs2 ++ rs1 ++ 1#3 ++ rd ++ 0x33#7)) = .ok (.sll rd rs1 rs2)
      ∧ ∃ t, exec (.sll rd rs1 rs2) s = .next t
        ∧ RegEffect rd (BitVec.ofNat 32 ((s.reg rs1).toNat * 2 ^ ((s.reg rs2).toNat % 32))) (s.pc + 4#32) s t)
    ∧ (decode (.full (0x00#7 ++ rs2 ++ rs1 ++ 5#3 ++ rd ++ 0x33#7)) = .ok (.srl rd rs1 rs2)
      ∧ ∃ t, exec (.srl rd rs1 rs2) s = .next t
        ∧ RegEffect rd (BitVec.ofNat 32 ((s.reg rs1).toNat / 2 ^ ((s.reg rs2).toNat % 32))) (s.pc + 4#32) s t)
    ∧ (decode (.full (0x20#7 ++ rs2 ++ rs1 ++ 5#3 ++ rd ++ 0x33#7)) = .ok (.sra rd rs1 rs2)
      ∧ ∃ t, exec (.sra rd rs1 rs2) s = .next t
        ∧ RegEffect rd (BitVec.ofInt 32 ((s.reg rs1).toInt / 2 ^ ((s.reg rs2).toNat % 32))) (s.pc + 4#32) s t)
    ∧ (decode (.full (0x00#7 ++ rs2 ++ rs1 ++ 2#3 ++ rd ++ 0x33#7)) = .ok (.slt rd rs1 rs2)
      ∧ ∃ t, exec (.slt rd rs1 rs2) s = .next t
        ∧ RegEffect rd (if (s.reg rs1).toInt < (s.reg rs2).toInt then 1#32 else 0#32) (s.pc + 4#32) s t)
    ∧ (decode (.full (0x00#7 ++ rs2 ++ rs1 ++ 3#3 ++ rd ++ 0x33#7)) = .ok (.sltu rd rs1 rs2)
      ∧ ∃ t, exec (.sltu rd rs1 rs2) s = .next t
        ∧ RegEffect rd (if (s.reg rs1).toNat < (s.reg rs2).toNat then 1#32 else 0#32) (s.pc + 4#32) s t)

/-- R183, R186, R187, R188: the immediate is sign-extended from 12 bits. -/
def Obligations.ImmediateArithmetic : Prop :=
  ∀ (s : State) (rd rs1 : Reg) (imm : BitVec 12), RegExists s rd → RegExists s rs1 →
    (decode (.full (imm ++ rs1 ++ 0#3 ++ rd ++ 0x13#7)) = .ok (.addi rd rs1 imm)
      ∧ ∃ t, exec (.addi rd rs1 imm) s = .next t
        ∧ RegEffect rd (BitVec.ofInt 32 ((s.reg rs1).toNat + imm.toInt)) (s.pc + 4#32) s t)
    ∧ (decode (.full (imm ++ rs1 ++ 4#3 ++ rd ++ 0x13#7)) = .ok (.xori rd rs1 imm)
      ∧ ∃ t, exec (.xori rd rs1 imm) s = .next t
        ∧ RegEffect rd (s.reg rs1 ^^^ BitVec.ofInt 32 imm.toInt) (s.pc + 4#32) s t)
    ∧ (decode (.full (imm ++ rs1 ++ 6#3 ++ rd ++ 0x13#7)) = .ok (.ori rd rs1 imm)
      ∧ ∃ t, exec (.ori rd rs1 imm) s = .next t
        ∧ RegEffect rd (s.reg rs1 ||| BitVec.ofInt 32 imm.toInt) (s.pc + 4#32) s t)
    ∧ (decode (.full (imm ++ rs1 ++ 7#3 ++ rd ++ 0x13#7)) = .ok (.andi rd rs1 imm)
      ∧ ∃ t, exec (.andi rd rs1 imm) s = .next t
        ∧ RegEffect rd (s.reg rs1 &&& BitVec.ofInt 32 imm.toInt) (s.pc + 4#32) s t)

/-- R184, R185, R189..R191: for SLTIU too the immediate is sign-extended first, then read as unsigned; the shift amount
is five bits of the word. -/
def Obligations.ImmediateShiftsCompares : Prop :=
  ∀ (s : State) (rd rs1 : Reg) (imm : BitVec 12) (shamt : BitVec 5), RegExists s rd → RegExists s rs1 →
    (decode (.full (imm ++ rs1 ++ 2#3 ++ rd ++ 0x13#7)) = .ok (.slti rd rs1 imm)
      ∧ ∃ t, exec (.slti rd rs1 imm) s = .next t
        ∧ RegEffect rd (if (s.reg rs1).toInt < imm.toInt then 1#32 else 0#32) (s.pc + 4#32) s t)
    ∧ (decode (.full (imm ++ rs1 ++ 3#3 ++ rd ++ 0x13#7)) = .ok (.sltiu rd rs1 imm)
      ∧ ∃ t, exec (.sltiu rd rs1 imm) s = .next t
        ∧ RegEffect rd (if ((s.reg rs1).toNat : Int) < imm.toInt % 2 ^ 32 then 1#32 else 0#32) (s.pc + 4#32) s t)
    ∧ (decode (.full (0x00#7 ++ shamt ++ rs1 ++ 1#3 ++ rd ++ 0x13#7)) = .ok (.slli rd rs1 shamt)
      ∧ ∃ t, exec (.slli rd rs1 shamt) s = .next t
        ∧ RegEffect rd (BitVec.ofNat 32 ((s.reg rs1).toNat * 2 ^ shamt.toNat)) (s.pc + 4#32) s t)
    ∧ (decode (.full (0x00#7 ++ shamt ++ rs1 ++ 5#3 ++ rd ++ 0x13#7)) = .ok (.srli rd rs1 shamt)
      ∧ ∃ t, exec (.srli rd rs1 shamt) s = .next t
        ∧ RegEffect rd (BitVec.ofNat 32 ((s.reg rs1).toNat / 2 ^ shamt.toNat)) (s.pc + 4#32) s t)
    ∧ (decode (.full (0x20#7 ++ shamt ++ rs1 ++ 5#3 ++ rd ++ 0x13#7)) = .ok (.srai rd rs1 shamt)
      ∧ ∃ t, exec (.srai rd rs1 shamt) s = .next t
        ∧ RegEffect rd (BitVec.ofInt 32 ((s.reg rs1).toInt / 2 ^ shamt.toNat)) (s.pc + 4#32) s t)

/-- R181, R182: AUIPC adds to the address of the AUIPC itself. -/
def Obligations.UpperImmediates : Prop :=
  ∀ (s : State) (rd : Reg) (imm : BitVec 20), RegExists s rd →
    (decode (.full (imm ++ rd ++ 0x37#7)) = .ok (.lui rd imm)
      ∧ ∃ t, exec (.lui rd imm) s = .next t
        ∧ RegEffect rd (BitVec.ofNat 32 (imm.toNat * 4096)) (s.pc + 4#32) s t)
    ∧ (decode (.full (imm ++ rd ++ 0x17#7)) = .ok (.auipc rd imm)
      ∧ ∃ t, exec (.auipc rd imm) s = .next t
        ∧ RegEffect rd (BitVec.ofNat 32 (s.pc.toNat + imm.toNat * 4096)) (s.pc + 4#32) s t)

/-! ### The M extension -/

/-- R266..R269: the halves of the exact product, as 64-bit two's complement. -/
def Obligations.Multiply : Prop :=
  ∀ (s : State) (rd rs1 rs2 : Reg), RegExists s rd → RegExists s rs1 → RegExists s rs2 →
    (decode (.full (0x01#7 ++ rs2 ++ rs1 ++ 0#3 ++ rd ++ 0x33#7)) = .ok (.mul rd rs1 rs2)
      ∧ ∃ t, exec (.mul rd rs1 rs2) s = .next t
        ∧ RegEffect rd (BitVec.ofNat 32 ((s.reg rs1).toNat * (s.reg rs2).toNat)) (s.pc + 4#32) s t)
    ∧ (decode (.full (0x01#7 ++ rs2 ++ rs1 ++ 1#3 ++ rd ++ 0x33#7)) = .ok (.mulh rd rs1 rs2)
      ∧ ∃ t, exec (.mulh rd rs1 rs2) s = .next t
        ∧ RegEffect rd (BitVec.ofInt 32 ((s.reg rs1).toInt * (s.reg rs2).toInt / 2 ^ 32)) (s.pc + 4#32) s t)
    ∧ (decode (.full (0x01#7 ++ rs2 ++ rs1 ++ 2#3 ++ rd ++ 0x33#7)) = .ok (.mulhsu rd rs1 rs2)
      ∧ ∃ t, exec (.mulhsu rd rs1 rs2) s = .next t
        ∧ RegEffect rd (BitVec.ofInt 32 ((s.reg rs1).toInt * (s.reg rs2).toNat / 2 ^ 32)) (s.pc + 4#32) s t)
    ∧ (decode (.full (0x01#7 ++ rs2 ++ rs1 ++ 3#3 ++ rd ++ 0x33#7)) = .ok (.mulhu rd rs1 rs2)
      ∧ ∃ t, exec (.mulhu rd rs1 rs2) s = .next t
        ∧ RegEffect rd (BitVec.ofNat 32 ((s.reg rs1).toNat * (s.reg rs2).toNat / 2 ^ 32)) (s.pc + 4#32) s t)

/-- R270..R273: quotients toward zero, remainders of the dividend's sign, and the two special cases. -/
def Obligations.Divide : Prop :=
  ∀ (s : State) (rd rs1 rs2 : Reg), RegExists s rd → RegExists s rs1 → RegExists s rs2 →
    (decode (.full (0x01#7 ++ rs2 ++ rs1 ++ 4#3 ++ rd ++ 0x33#7)) = .ok (.div rd rs1 rs2)
      ∧ ∃ t, exec (.div rd rs1 rs2) s = .next t
        ∧ RegEffect rd
          (if s.reg rs2 = 0#32 then 0xFFFFFFFF#32
            else if s.reg rs1 = 0x80000000#32 ∧ s.reg rs2 = 0xFFFFFFFF#32 then 0x80000000#32
            else BitVec.ofInt 32 ((s.reg rs1).toInt.tdiv (s.reg rs2).toInt)) (s.pc + 4#32) s t)
    ∧ (decode (.full (0x01#7 ++ rs2 ++ rs1 ++ 5#3 ++ rd ++ 0x33#7)) = .ok (.divu rd rs1 rs2)
      ∧ ∃ t, exec (.divu rd rs1 rs2) s = .next t
        ∧ RegEffect rd
          (if s.reg rs2 = 0#32 then 0xFFFFFFFF#32
            else BitVec.ofNat 32 ((s.reg rs1).toNat / (s.reg rs2).toNat)) (s.pc + 4#32) s t)
    ∧ (decode (.full (0x01#7 ++ rs2 ++ rs1 ++ 6#3 ++ rd ++ 0x33#7)) = .ok (.rem rd rs1 rs2)
      ∧ ∃ t, exec (.rem rd rs1 rs2) s = .next t
        ∧ RegEffect rd
          (if s.reg rs2 = 0#32 then s.reg rs1
            else if s.reg rs1 = 0x80000000#32 ∧ s.reg rs2 = 0xFFFFFFFF#32 then 0#32
            else BitVec.ofInt 32
              ((s.reg rs1).toInt - (s.reg rs2).toInt * (s.reg rs1).toInt.tdiv (s.reg rs2).toInt))
          (s.pc + 4#32) s t)
    ∧ (decode (.full (0x01#7 ++ rs2 ++ rs1 ++ 7#3 ++ rd ++ 0x33#7)) = .ok (.remu rd rs1 rs2)
      ∧ ∃ t, exec (.remu rd rs1 rs2) s = .next t
        ∧ RegEffect rd
          (if s.reg rs2 = 0#32 then s.reg rs1 else BitVec.ofNat 32 ((s.reg rs1).toNat % (s.reg rs2).toNat))
          (s.pc + 4#32) s t)

/-- R274 (b): what DIV and REM, and DIVU and REMU, write for the same operands belongs to one division. -/
def Obligations.DivisionLaw : Prop :=
  ∀ a b : Word, b ≠ 0#32 →
    (¬(a = 0x80000000#32 ∧ b = 0xFFFFFFFF#32) →
      a.toInt = b.toInt * (divS a b).toInt + (remS a b).toInt
        ∧ (remS a b).toInt.natAbs < b.toInt.natAbs
        ∧ ((remS a b).toInt ≠ 0 → ((remS a b).toInt < 0 ↔ a.toInt < 0)))
    ∧ a.toNat = b.toNat * (divU a b).toNat + (remU a b).toNat ∧ (remU a b).toNat < b.toNat

/-! ### Compressed computation -/

/-- R281, R285, R287, R288, R289, R292: encoding (30_encoding R161..R163), result and frame, with the immediate's value,
and 2 for the length. -/
def Obligations.CompressedImmediates : Prop :=
  ∀ s : State,
    (∀ (rd : CReg) (imm : BitVec 8),
      (imm ≠ 0#8 → decode (.half (0#3 ++ imm.extractLsb' 2 2 ++ imm.extractLsb' 4 4 ++ imm.extractLsb' 0 1
          ++ imm.extractLsb' 1 1 ++ rd ++ 0#2)) = .ok (.cAddi4spn rd imm))
      ∧ ∃ t, exec (.cAddi4spn rd imm) s = .next t
        ∧ RegEffect (creg rd) (BitVec.ofNat 32 ((s.reg 2#5).toNat + 4 * imm.toNat)) (s.pc + 2#32) s t)
    ∧ (∀ (rd : Reg) (imm : BitVec 6), RegExists s rd →
      (rd ≠ 0#5 → decode (.half (0#3 ++ imm.extractLsb' 5 1 ++ rd ++ imm.extractLsb' 0 5 ++ 1#2)) = .ok (.cAddi rd imm))
      ∧ ∃ t, exec (.cAddi rd imm) s = .next t
        ∧ RegEffect rd (BitVec.ofInt 32 ((s.reg rd).toNat + imm.toInt)) (s.pc + 2#32) s t)
    ∧ (∀ (rd : Reg) (imm : BitVec 6), RegExists s rd →
      decode (.half (2#3 ++ imm.extractLsb' 5 1 ++ rd ++ imm.extractLsb' 0 5 ++ 1#2)) = .ok (.cLi rd imm)
      ∧ ∃ t, exec (.cLi rd imm) s = .next t
        ∧ RegEffect rd (BitVec.ofInt 32 imm.toInt) (s.pc + 2#32) s t)
    ∧ (∀ imm : BitVec 6,
      (imm ≠ 0#6 → decode (.half (3#3 ++ imm.extractLsb' 5 1 ++ 2#5 ++ imm.extractLsb' 0 1
          ++ imm.extractLsb' 2 1 ++ imm.extractLsb' 3 2 ++ imm.extractLsb' 1 1 ++ 1#2)) = .ok (.cAddi16sp imm))
      ∧ ∃ t, exec (.cAddi16sp imm) s = .next t
        ∧ RegEffect 2#5 (BitVec.ofInt 32 ((s.reg 2#5).toNat + 16 * imm.toInt)) (s.pc + 2#32) s t)
    ∧ (∀ (rd : Reg) (imm : BitVec 6), RegExists s rd →
      (rd ≠ 2#5 ∧ imm ≠ 0#6 → decode (.half (3#3 ++ imm.extractLsb' 5 1 ++ rd ++ imm.extractLsb' 0 5 ++ 1#2)) = .ok (.cLui rd imm))
      ∧ ∃ t, exec (.cLui rd imm) s = .next t
        ∧ RegEffect rd (BitVec.ofInt 32 (4096 * imm.toInt)) (s.pc + 2#32) s t)
    ∧ (∀ (rd : CReg) (imm : BitVec 6),
      decode (.half (4#3 ++ imm.extractLsb' 5 1 ++ 2#2 ++ rd ++ imm.extractLsb' 0 5 ++ 1#2)) = .ok (.cAndi rd imm)
      ∧ ∃ t, exec (.cAndi rd imm) s = .next t
        ∧ RegEffect (creg rd) (s.reg (creg rd) &&& BitVec.ofInt 32 imm.toInt) (s.pc + 2#32) s t)

/-- R290, R291, R293..R296, R300, R303, R306: encoding (30_encoding R163, R164), result and frame; the 3-bit fields name
x8..x15 (R160). -/
def Obligations.CompressedRegisters : Prop :=
  ∀ s : State,
    (∀ r : CReg, (creg r).toNat = 8 + r.toNat)
    ∧ (∀ rd rs2 : CReg,
      decode (.half (4#3 ++ 3#3 ++ rd ++ 0#2 ++ rs2 ++ 1#2)) = .ok (.cSub rd rs2)
      ∧ ∃ t, exec (.cSub rd rs2) s = .next t
        ∧ RegEffect (creg rd) (BitVec.ofInt 32 ((s.reg (creg rd)).toNat - (s.reg (creg rs2)).toNat)) (s.pc + 2#32) s t)
    ∧ (∀ rd rs2 : CReg,
      decode (.half (4#3 ++ 3#3 ++ rd ++ 1#2 ++ rs2 ++ 1#2)) = .ok (.cXor rd rs2)
      ∧ ∃ t, exec (.cXor rd rs2) s = .next t
        ∧ RegEffect (creg rd) (s.reg (creg rd) ^^^ s.reg (creg rs2)) (s.pc + 2#32) s t)
    ∧ (∀ rd rs2 : CReg,
      decode (.half (4#3 ++ 3#3 ++ rd ++ 2#2 ++ rs2 ++ 1#2)) = .ok (.cOr rd rs2)
      ∧ ∃ t, exec (.cOr rd rs2) s = .next t
        ∧ RegEffect (creg rd) (s.reg (creg rd) ||| s.reg (creg rs2)) (s.pc + 2#32) s t)
    ∧ (∀ rd rs2 : CReg,
      decode (.half (4#3 ++ 3#3 ++ rd ++ 3#2 ++ rs2 ++ 1#2)) = .ok (.cAnd rd rs2)
      ∧ ∃ t, exec (.cAnd rd rs2) s = .next t
        ∧ RegEffect (creg rd) (s.reg (creg rd) &&& s.reg (creg rs2)) (s.pc + 2#32) s t)
    ∧ (∀ rd rs2 : Reg, RegExists s rd → RegExists s rs2 →
      (rs2 ≠ 0#5 → decode (.half (4#3 ++ 0#1 ++ rd ++ rs2 ++ 2#2)) = .ok (.cMv rd rs2))
      ∧ ∃ t, exec (.cMv rd rs2) s = .next t
        ∧ RegEffect rd (s.reg rs2) (s.pc + 2#32) s t)
    ∧ (∀ rd rs2 : Reg, RegExists s rd → RegExists s rs2 →
      (rs2 ≠ 0#5 → decode (.half (4#3 ++ 1#1 ++ rd ++ rs2 ++ 2#2)) = .ok (.cAdd rd rs2))
      ∧ ∃ t, exec (.cAdd rd rs2) s = .next t
        ∧ RegEffect rd (BitVec.ofNat 32 ((s.reg rd).toNat + (s.reg rs2).toNat)) (s.pc + 2#32) s t)
    ∧ (∀ (rd : CReg) (shamt : BitVec 5),
      decode (.half (4#3 ++ 0#1 ++ 0#2 ++ rd ++ shamt ++ 1#2)) = .ok (.cSrli rd shamt)
      ∧ ∃ t, exec (.cSrli rd shamt) s = .next t
        ∧ RegEffect (creg rd) (BitVec.ofNat 32 ((s.reg (creg rd)).toNat / 2 ^ shamt.toNat)) (s.pc + 2#32) s t)
    ∧ (∀ (rd : CReg) (shamt : BitVec 5),
      decode (.half (4#3 ++ 0#1 ++ 1#2 ++ rd ++ shamt ++ 1#2)) = .ok (.cSrai rd shamt)
      ∧ ∃ t, exec (.cSrai rd shamt) s = .next t
        ∧ RegEffect (creg rd) (BitVec.ofInt 32 ((s.reg (creg rd)).toInt / 2 ^ shamt.toNat)) (s.pc + 2#32) s t)
    ∧ (∀ (rd : Reg) (shamt : BitVec 5), RegExists s rd →
      decode (.half (0#3 ++ 0#1 ++ rd ++ shamt ++ 2#2)) = .ok (.cSlli rd shamt)
      ∧ ∃ t, exec (.cSlli rd shamt) s = .next t
        ∧ RegEffect rd (BitVec.ofNat 32 ((s.reg rd).toNat * 2 ^ shamt.toNat)) (s.pc + 2#32) s t)

/-! ### Control transfer -/

/-- R212, R213: encoding (30_encoding R144), result and frame. The link is the following address; JALR reads its register
first and clears bit 0 of the target. -/
def Obligations.Jumps : Prop :=
  ∀ (s : State) (rd rs1 : Reg), RegExists s rd → RegExists s rs1 →
    (∀ imm : BitVec 20,
      decode (.full (imm.extractLsb' 19 1 ++ imm.extractLsb' 0 10 ++ imm.extractLsb' 10 1 ++ imm.extractLsb' 11 8 ++ rd
        ++ 0x6F#7)) = .ok (.jal rd imm)
      ∧ ∃ t, exec (.jal rd imm) s = .next t
        ∧ RegEffect rd (s.pc + 4#32) (BitVec.ofInt 32 (s.pc.toNat + 2 * imm.toInt)) s t)
    ∧ (∀ imm : BitVec 12,
      decode (.full (imm ++ rs1 ++ 0#3 ++ rd ++ 0x67#7)) = .ok (.jalr rd rs1 imm)
      ∧ ∃ t, exec (.jalr rd rs1 imm) s = .next t
        ∧ RegEffect rd (s.pc + 4#32) (BitVec.ofInt 32 (2 * (((s.reg rs1).toNat + imm.toInt) / 2))) s t)

/-- R214..R219: encoding (30_encoding R144); to pc + imm when the condition holds, else to the next instruction. -/
def Obligations.Branches : Prop :=
  ∀ (s : State) (rs1 rs2 : Reg) (imm : BitVec 12), RegExists s rs1 → RegExists s rs2 →
    (decode (.full (imm.extractLsb' 11 1 ++ imm.extractLsb' 4 6 ++ rs2 ++ rs1 ++ 0#3 ++ imm.extractLsb' 0 4
          ++ imm.extractLsb' 10 1 ++ 0x63#7)) = .ok (.beq rs1 rs2 imm)
      ∧ ∃ t, exec (.beq rs1 rs2 imm) s = .next t
        ∧ PcEffect (if s.reg rs1 = s.reg rs2 then BitVec.ofInt 32 (s.pc.toNat + 2 * imm.toInt)
          else s.pc + 4#32) s t)
    ∧ (decode (.full (imm.extractLsb' 11 1 ++ imm.extractLsb' 4 6 ++ rs2 ++ rs1 ++ 1#3 ++ imm.extractLsb' 0 4
          ++ imm.extractLsb' 10 1 ++ 0x63#7)) = .ok (.bne rs1 rs2 imm)
      ∧ ∃ t, exec (.bne rs1 rs2 imm) s = .next t
        ∧ PcEffect (if s.reg rs1 ≠ s.reg rs2 then BitVec.ofInt 32 (s.pc.toNat + 2 * imm.toInt)
          else s.pc + 4#32) s t)
    ∧ (decode (.full (imm.extractLsb' 11 1 ++ imm.extractLsb' 4 6 ++ rs2 ++ rs1 ++ 4#3 ++ imm.extractLsb' 0 4
          ++ imm.extractLsb' 10 1 ++ 0x63#7)) = .ok (.blt rs1 rs2 imm)
      ∧ ∃ t, exec (.blt rs1 rs2 imm) s = .next t
        ∧ PcEffect (if (s.reg rs1).toInt < (s.reg rs2).toInt then BitVec.ofInt 32 (s.pc.toNat + 2 * imm.toInt)
          else s.pc + 4#32) s t)
    ∧ (decode (.full (imm.extractLsb' 11 1 ++ imm.extractLsb' 4 6 ++ rs2 ++ rs1 ++ 5#3 ++ imm.extractLsb' 0 4
          ++ imm.extractLsb' 10 1 ++ 0x63#7)) = .ok (.bge rs1 rs2 imm)
      ∧ ∃ t, exec (.bge rs1 rs2 imm) s = .next t
        ∧ PcEffect (if (s.reg rs2).toInt ≤ (s.reg rs1).toInt then BitVec.ofInt 32 (s.pc.toNat + 2 * imm.toInt)
          else s.pc + 4#32) s t)
    ∧ (decode (.full (imm.extractLsb' 11 1 ++ imm.extractLsb' 4 6 ++ rs2 ++ rs1 ++ 6#3 ++ imm.extractLsb' 0 4
          ++ imm.extractLsb' 10 1 ++ 0x63#7)) = .ok (.bltu rs1 rs2 imm)
      ∧ ∃ t, exec (.bltu rs1 rs2 imm) s = .next t
        ∧ PcEffect (if (s.reg rs1).toNat < (s.reg rs2).toNat then BitVec.ofInt 32 (s.pc.toNat + 2 * imm.toInt)
          else s.pc + 4#32) s t)
    ∧ (decode (.full (imm.extractLsb' 11 1 ++ imm.extractLsb' 4 6 ++ rs2 ++ rs1 ++ 7#3 ++ imm.extractLsb' 0 4
          ++ imm.extractLsb' 10 1 ++ 0x63#7)) = .ok (.bgeu rs1 rs2 imm)
      ∧ ∃ t, exec (.bgeu rs1 rs2 imm) s = .next t
        ∧ PcEffect (if (s.reg rs2).toNat ≤ (s.reg rs1).toNat then BitVec.ofInt 32 (s.pc.toNat + 2 * imm.toInt)
          else s.pc + 4#32) s t)

/-- R286, R297..R299, R302, R305: encoding (30_encoding R161, R163, R164); the link, if any, is x1 and the address after
two bytes; a branch goes to pc + imm when its register is zero, or not zero. -/
def Obligations.CompressedControl : Prop :=
  ∀ s : State,
    (∀ imm : BitVec 11,
      decode (.half (5#3 ++ imm.extractLsb' 10 1 ++ imm.extractLsb' 3 1 ++ imm.extractLsb' 7 2 ++ imm.extractLsb' 9 1
          ++ imm.extractLsb' 5 1 ++ imm.extractLsb' 6 1 ++ imm.extractLsb' 0 3 ++ imm.extractLsb' 4 1 ++ 1#2)) = .ok (.cJ imm)
      ∧ ∃ t, exec (.cJ imm) s = .next t
        ∧ PcEffect (BitVec.ofInt 32 (s.pc.toNat + 2 * imm.toInt)) s t)
    ∧ (∀ imm : BitVec 11,
      decode (.half (1#3 ++ imm.extractLsb' 10 1 ++ imm.extractLsb' 3 1 ++ imm.extractLsb' 7 2 ++ imm.extractLsb' 9 1
          ++ imm.extractLsb' 5 1 ++ imm.extractLsb' 6 1 ++ imm.extractLsb' 0 3 ++ imm.extractLsb' 4 1 ++ 1#2)) = .ok (.cJal imm)
      ∧ ∃ t, exec (.cJal imm) s = .next t
        ∧ RegEffect 1#5 (s.pc + 2#32) (BitVec.ofInt 32 (s.pc.toNat + 2 * imm.toInt)) s t)
    ∧ (∀ rs1 : Reg, RegExists s rs1 →
      (rs1 ≠ 0#5 → decode (.half (4#3 ++ 0#1 ++ rs1 ++ 0#5 ++ 2#2)) = .ok (.cJr rs1))
      ∧ ∃ t, exec (.cJr rs1) s = .next t
        ∧ PcEffect (BitVec.ofNat 32 (2 * ((s.reg rs1).toNat / 2))) s t)
    ∧ (∀ rs1 : Reg, RegExists s rs1 →
      (rs1 ≠ 0#5 → decode (.half (4#3 ++ 1#1 ++ rs1 ++ 0#5 ++ 2#2)) = .ok (.cJalr rs1))
      ∧ ∃ t, exec (.cJalr rs1) s = .next t
        ∧ RegEffect 1#5 (s.pc + 2#32) (BitVec.ofNat 32 (2 * ((s.reg rs1).toNat / 2))) s t)
    ∧ (∀ (rs1 : CReg) (imm : BitVec 8),
      decode (.half (6#3 ++ imm.extractLsb' 7 1 ++ imm.extractLsb' 2 2 ++ rs1 ++ imm.extractLsb' 5 2 ++ imm.extractLsb' 0 2
          ++ imm.extractLsb' 4 1 ++ 1#2)) = .ok (.cBeqz rs1 imm)
      ∧ ∃ t, exec (.cBeqz rs1 imm) s = .next t
        ∧ PcEffect (if s.reg (creg rs1) = 0#32 then BitVec.ofInt 32 (s.pc.toNat + 2 * imm.toInt)
          else s.pc + 2#32) s t)
    ∧ (∀ (rs1 : CReg) (imm : BitVec 8),
      decode (.half (7#3 ++ imm.extractLsb' 7 1 ++ imm.extractLsb' 2 2 ++ rs1 ++ imm.extractLsb' 5 2 ++ imm.extractLsb' 0 2
          ++ imm.extractLsb' 4 1 ++ 1#2)) = .ok (.cBnez rs1 imm)
      ∧ ∃ t, exec (.cBnez rs1 imm) s = .next t
        ∧ PcEffect (if s.reg (creg rs1) ≠ 0#32 then BitVec.ofInt 32 (s.pc.toNat + 2 * imm.toInt)
          else s.pc + 2#32) s t)

/-! ### Loads, stores, fences -/

/-- R230..R235: encoding (30_encoding R146); at any alignment and whichever way misaligned accesses are split, a load from
plain memory gives the little-endian value of its bytes, extended. -/
def Obligations.Loads : Prop :=
  ∀ (s : State) (rd rs1 : Reg) (imm : BitVec 12), RegExists s rd → RegExists s rs1 →
    s.effAddr rs1 imm = BitVec.ofInt 32 ((s.reg rs1).toNat + imm.toInt)
    ∧ decode (.full (imm ++ rs1 ++ 0#3 ++ rd ++ 0x03#7)) = .ok (.lb rd rs1 imm)
    ∧ (Readable s (s.effAddr rs1 imm) 1 → ∃ t, exec (.lb rd rs1 imm) s = .next t
      ∧ RegEffect rd (BitVec.ofInt 32 (BitVec.ofNat 8 (s.bytesValue (s.effAddr rs1 imm) 1)).toInt) (s.pc + 4#32) s t)
    ∧ decode (.full (imm ++ rs1 ++ 1#3 ++ rd ++ 0x03#7)) = .ok (.lh rd rs1 imm)
    ∧ (Readable s (s.effAddr rs1 imm) 2 → ∃ t, exec (.lh rd rs1 imm) s = .next t
      ∧ RegEffect rd (BitVec.ofInt 32 (BitVec.ofNat 16 (s.bytesValue (s.effAddr rs1 imm) 2)).toInt) (s.pc + 4#32) s t)
    ∧ decode (.full (imm ++ rs1 ++ 2#3 ++ rd ++ 0x03#7)) = .ok (.lw rd rs1 imm)
    ∧ (Readable s (s.effAddr rs1 imm) 4 → ∃ t, exec (.lw rd rs1 imm) s = .next t
      ∧ RegEffect rd (BitVec.ofNat 32 (s.bytesValue (s.effAddr rs1 imm) 4)) (s.pc + 4#32) s t)
    ∧ decode (.full (imm ++ rs1 ++ 4#3 ++ rd ++ 0x03#7)) = .ok (.lbu rd rs1 imm)
    ∧ (Readable s (s.effAddr rs1 imm) 1 → ∃ t, exec (.lbu rd rs1 imm) s = .next t
      ∧ RegEffect rd (BitVec.ofNat 32 (s.bytesValue (s.effAddr rs1 imm) 1)) (s.pc + 4#32) s t)
    ∧ decode (.full (imm ++ rs1 ++ 5#3 ++ rd ++ 0x03#7)) = .ok (.lhu rd rs1 imm)
    ∧ (Readable s (s.effAddr rs1 imm) 2 → ∃ t, exec (.lhu rd rs1 imm) s = .next t
      ∧ RegEffect rd (BitVec.ofNat 32 (s.bytesValue (s.effAddr rs1 imm) 2)) (s.pc + 4#32) s t)

/-- R282, R301: encoding (30_encoding R161), result and frame. -/
def Obligations.CompressedLoads : Prop :=
  ∀ s : State,
    (∀ (rd rs1 : CReg) (imm : BitVec 5) (ea : Word), ea = BitVec.ofNat 32 ((s.reg (creg rs1)).toNat + 4 * imm.toNat) →
      decode (.half (2#3 ++ imm.extractLsb' 1 3 ++ rs1 ++ imm.extractLsb' 0 1 ++ imm.extractLsb' 4 1 ++ rd ++ 0#2))
        = .ok (.cLw rd rs1 imm)
      ∧ (Readable s ea 4 → ∃ t, exec (.cLw rd rs1 imm) s = .next t
        ∧ RegEffect (creg rd) (BitVec.ofNat 32 (s.bytesValue ea 4)) (s.pc + 2#32) s t))
    ∧ (∀ (rd : Reg) (imm : BitVec 6) (ea : Word), RegExists s rd →
      ea = BitVec.ofNat 32 ((s.reg 2#5).toNat + 4 * imm.toNat) →
      (rd ≠ 0#5 → decode (.half (2#3 ++ imm.extractLsb' 3 1 ++ rd ++ imm.extractLsb' 0 3 ++ imm.extractLsb' 4 2 ++ 2#2))
        = .ok (.cLwsp rd imm))
      ∧ (Readable s ea 4 → ∃ t, exec (.cLwsp rd imm) s = .next t
        ∧ RegEffect rd (BitVec.ofNat 32 (s.bytesValue ea 4)) (s.pc + 2#32) s t))

/-- R230, R236..R238: encoding (30_encoding R144); a store to plain memory writes the low bytes of its register at the
effective address, at any alignment, and no other byte. -/
def Obligations.Stores : Prop :=
  ∀ (s : State) (rs1 rs2 : Reg) (imm : BitVec 12), RegExists s rs1 → RegExists s rs2 → Memory.wf s.mem = true →
    s.effAddr rs1 imm = BitVec.ofInt 32 ((s.reg rs1).toNat + imm.toInt)
    ∧ decode (.full (imm.extractLsb' 5 7 ++ rs2 ++ rs1 ++ 0#3 ++ imm.extractLsb' 0 5 ++ 0x23#7)) = .ok (.sb rs1 rs2 imm)
    ∧ (Writable s (s.effAddr rs1 imm) 1 → ∃ t, exec (.sb rs1 rs2 imm) s = .next t
      ∧ StoreEffect (s.effAddr rs1 imm) 1 (s.reg rs2) (s.pc + 4#32) s t)
    ∧ decode (.full (imm.extractLsb' 5 7 ++ rs2 ++ rs1 ++ 1#3 ++ imm.extractLsb' 0 5 ++ 0x23#7)) = .ok (.sh rs1 rs2 imm)
    ∧ (Writable s (s.effAddr rs1 imm) 2 → ∃ t, exec (.sh rs1 rs2 imm) s = .next t
      ∧ StoreEffect (s.effAddr rs1 imm) 2 (s.reg rs2) (s.pc + 4#32) s t)
    ∧ decode (.full (imm.extractLsb' 5 7 ++ rs2 ++ rs1 ++ 2#3 ++ imm.extractLsb' 0 5 ++ 0x23#7)) = .ok (.sw rs1 rs2 imm)
    ∧ (Writable s (s.effAddr rs1 imm) 4 → ∃ t, exec (.sw rs1 rs2 imm) s = .next t
      ∧ StoreEffect (s.effAddr rs1 imm) 4 (s.reg rs2) (s.pc + 4#32) s t)

/-- R283, R307: encoding (30_encoding R161), address, bytes stored and frame. -/
def Obligations.CompressedStores : Prop :=
  ∀ s : State, Memory.wf s.mem = true →
    (∀ (rs1 rs2 : CReg) (imm : BitVec 5),
      s.reg (creg rs1) + immCLw imm = BitVec.ofNat 32 ((s.reg (creg rs1)).toNat + 4 * imm.toNat)
      ∧ decode (.half (6#3 ++ imm.extractLsb' 1 3 ++ rs1 ++ imm.extractLsb' 0 1 ++ imm.extractLsb' 4 1 ++ rs2 ++ 0#2))
        = .ok (.cSw rs1 rs2 imm)
      ∧ (Writable s (s.reg (creg rs1) + immCLw imm) 4 → ∃ t, exec (.cSw rs1 rs2 imm) s = .next t
        ∧ StoreEffect (s.reg (creg rs1) + immCLw imm) 4 (s.reg (creg rs2)) (s.pc + 2#32) s t))
    ∧ (∀ (rs2 : Reg) (imm : BitVec 6), RegExists s rs2 →
      s.reg 2#5 + immCSp imm = BitVec.ofNat 32 ((s.reg 2#5).toNat + 4 * imm.toNat)
      ∧ decode (.half (6#3 ++ imm.extractLsb' 0 4 ++ imm.extractLsb' 4 2 ++ rs2 ++ 2#2)) = .ok (.cSwsp rs2 imm)
      ∧ (Writable s (s.reg 2#5 + immCSp imm) 4 → ∃ t, exec (.cSwsp rs2 imm) s = .next t
        ∧ StoreEffect (s.reg 2#5 + immCSp imm) 4 (s.reg rs2) (s.pc + 2#32) s t))

/-- 20_memory R108, the table: the bus transfers of an access, by its size and the low bits of its address. -/
def Obligations.AccessParts : Prop :=
  ∀ a : Word,
    (∀ m, splitAccess m a .byte = [⟨a, 1⟩])
    ∧ (a.toNat % 2 = 0 → ∀ m, splitAccess m a .half = [⟨a, 2⟩])
    ∧ (a.toNat % 4 = 0 → ∀ m, splitAccess m a .word = [⟨a, 4⟩])
    ∧ (a.toNat % 4 = 1 →
        splitAccess .twoCycles a .half = [⟨a, 2⟩] ∧ splitAccess .byteHalf a .half = [⟨a, 1⟩, ⟨a + 1#32, 1⟩]
        ∧ splitAccess .twoCycles a .word = [⟨a, 3⟩, ⟨a + 3#32, 1⟩]
        ∧ splitAccess .byteHalf a .word = [⟨a, 1⟩, ⟨a + 1#32, 2⟩, ⟨a + 3#32, 1⟩])
    ∧ (a.toNat % 4 = 2 → ∀ m, splitAccess m a .word = [⟨a, 2⟩, ⟨a + 2#32, 2⟩])
    ∧ (a.toNat % 4 = 3 →
        (∀ m, splitAccess m a .half = [⟨a, 1⟩, ⟨a + 1#32, 1⟩])
        ∧ splitAccess .twoCycles a .word = [⟨a, 1⟩, ⟨a + 1#32, 3⟩]
        ∧ splitAccess .byteHalf a .word = [⟨a, 1⟩, ⟨a + 1#32, 2⟩, ⟨a + 3#32, 1⟩])

/-- R230, 20_memory R108, R110, R116, 60_exceptions R355: a load one of whose parts lies in no region, or in one that
forbids reading in the mode of the access, raises LoadAccessFault with the address of the first such part and writes no
register; devices have been read by the parts before it, and no more. Which part is first in an access that wraps past
0xFFFFFFFF is the model's choice (assumption 40), and that a part's first byte decides its region (assumption 26). -/
def Obligations.LoadFaults : Prop :=
  ∀ (s : State) (i : Instr) (f : LoadForm) (pre post : List Part) (p : Part), TakesExceptions s → RegsExist s i →
    loadForm s i = some f → splitAccess s.cfg.misalignedSplit f.ea f.width = pre ++ p :: post →
    (∀ q ∈ pre, ¬CannotRead s q.addr) → CannotRead s p.addr →
      ∃ t, exec i s = .next t
        ∧ TrapEffect false 5 p.addr s.pc
          { s with device := ((pre.filter fun q => deviceAt s q.addr).map Part.asRead).reverse ++ s.device } t

/-- 20_memory R108, R111, R116, 60_exceptions R356: a store, of 32 or 16 bits, one of whose parts lies in no region, in
`rom`, or in a region that forbids writing in the mode of the access, raises StoreAccessFault with the address of the
first such part. Each byte of its other parts is old or new (assumption 14), those of faulting parts and all outside the
access are unchanged, and the CLINT and devices change only if a part goes to one. The order of the parts of an access
that wraps past 0xFFFFFFFF is the model's choice (assumption 40), and that a part's first byte decides its region
(assumption 26). -/
def Obligations.StoreFaults : Prop :=
  ∀ (s : State) (i : Instr) (f : StoreForm) (pre post : List Part) (p : Part), TakesExceptions s → RegsExist s i →
    Memory.wf s.mem = true → storeForm s i = some f →
    splitAccess s.cfg.misalignedSplit f.ea f.width = pre ++ p :: post →
    (∀ q ∈ pre, ¬CannotWrite s q.addr) → CannotWrite s p.addr →
      ∃ t, exec i s = .next t
        ∧ TrapEffect false 7 p.addr s.pc
          { s with mem := t.mem, stale := t.stale, msip := t.msip, mtimecmp := t.mtimecmp, mtime := t.mtime,
                   device := t.device } t
        ∧ (∀ a : Word, f.width.bytes ≤ (a - f.ea).toNat → t.byteAt a = s.byteAt a)
        ∧ (∀ k : Nat, k < f.width.bytes →
            t.byteAt (f.ea + BitVec.ofNat 32 k) = s.byteAt (f.ea + BitVec.ofNat 32 k)
              ∨ t.byteAt (f.ea + BitVec.ofNat 32 k) = f.value.extractLsb' (8 * k) 8)
        ∧ (∀ q ∈ p :: post, CannotWrite s q.addr →
            ∀ k : Nat, k < q.len → t.byteAt (q.addr + BitVec.ofNat 32 k) = s.byteAt (q.addr + BitVec.ofNat 32 k))
        ∧ ((∀ q ∈ pre ++ post, WritableByte s q.addr ∨ CannotWrite s q.addr) →
            t.msip = s.msip ∧ t.mtimecmp = s.mtimecmp ∧ t.mtime = s.mtime ∧ t.device = s.device)

/-- 20_memory R110, R111, R115, R120, 60_exceptions R391: a load or store all of whose parts a device permits completes,
giving the device one transfer for each part, once and in order; a load gets the bytes the device gives (free values,
assumption 16), extended as from plain memory, and a store changes no byte of memory. -/
def Obligations.DeviceAccesses : Prop :=
  ∀ (s : State) (i : Instr), RegsExist s i →
    (∀ f : LoadForm, loadForm s i = some f →
      (∀ p ∈ splitAccess s.cfg.misalignedSplit f.ea f.width, deviceAt s p.addr = true ∧ ¬CannotRead s p.addr) →
        ∃ t, exec i s = .next t
          ∧ t.device = ((splitAccess s.cfg.misalignedSplit f.ea f.width).map Part.asRead).reverse ++ s.device
          ∧ RegEffect f.rd (f.result (s.deviceValue f.ea f.width.bytes)) (s.pc + f.ilen)
            { s with device := t.device } t)
    ∧ (∀ f : StoreForm, storeForm s i = some f →
      (∀ p ∈ splitAccess s.cfg.misalignedSplit f.ea f.width, deviceAt s p.addr = true ∧ ¬CannotWrite s p.addr) →
        ∃ t, exec i s = .next t
          ∧ t.device
            = ((splitAccess s.cfg.misalignedSplit f.ea f.width).map (Part.asWrite f.ea f.value)).reverse ++ s.device
          ∧ PcEffect (s.pc + f.ilen) { s with device := t.device } t)

/-- 60_exceptions R387: an aligned word store, of 32 or 16 bits, to a word of the CLINT's `msip`, `mtimecmp` or `mtime`
writes it, bit 0 alone of `msip`, and changes no memory byte; an aligned word load reads it, bits 31:1 of `msip` as zero.
The registers are taken not to overlap, and a store to a word with no register changes nothing (assumption 18). -/
def Obligations.ClintRegisters : Prop :=
  ∀ (s : State) (i : Instr), RegsExist s i →
    (∀ (f : StoreForm) (r : Region), storeForm s i = some f → f.width = .word → f.ea.toNat % 4 = 0 →
      regionAt s.cfg.memMap f.ea = some r → r.kind = .clint → mayWrite s r = true →
        ∃ t, exec i s = .next t ∧ t.pc = s.pc + f.ilen ∧ SameRegs s t ∧ SameBytes s t ∧ Retired t
          ∧ (f.ea = Config.clintMsip s.cfg → t.msip = f.value.getLsbD 0
            ∧ t = { s with msip := t.msip, stale := t.stale, pc := t.pc, log := t.log })
          ∧ (∀ h : Nat, h < 2 → f.ea = Config.clintMtimecmp s.cfg + BitVec.ofNat 32 (4 * h) →
            (∀ k : Nat, k < 4 → 4 ≤ (f.ea + BitVec.ofNat 32 k - Config.clintMsip s.cfg).toNat) →
              t.mtimecmp.toNat = (if h = 0 then s.mtimecmp.toNat / 2 ^ 32 * 2 ^ 32 + f.value.toNat
                else f.value.toNat * 2 ^ 32 + s.mtimecmp.toNat % 2 ^ 32)
              ∧ t = { s with mtimecmp := t.mtimecmp, stale := t.stale, pc := t.pc, log := t.log })
          ∧ (∀ h : Nat, h < 2 → f.ea = Config.clintMtime s.cfg + BitVec.ofNat 32 (4 * h) →
            (∀ k : Nat, k < 4 → 4 ≤ (f.ea + BitVec.ofNat 32 k - Config.clintMsip s.cfg).toNat
              ∧ 8 ≤ (f.ea + BitVec.ofNat 32 k - Config.clintMtimecmp s.cfg).toNat) →
              t.mtime.toNat = (if h = 0 then s.mtime.toNat / 2 ^ 32 * 2 ^ 32 + f.value.toNat
                else f.value.toNat * 2 ^ 32 + s.mtime.toNat % 2 ^ 32)
              ∧ t = { s with mtime := t.mtime, stale := t.stale, pc := t.pc, log := t.log })
          ∧ ((∀ k : Nat, k < 4 → s.clintByte (f.ea + BitVec.ofNat 32 k) = none) → OnlyPc s t))
    ∧ (∀ (f : LoadForm) (r : Region), loadForm s i = some f → f.width = .word → f.ea.toNat % 4 = 0 →
      regionAt s.cfg.memMap f.ea = some r → r.kind = .clint → mayRead s r = true →
        ∃ (v : Word) (t : State), exec i s = .next t ∧ RegEffect f.rd v (s.pc + f.ilen) s t
          ∧ (f.ea = Config.clintMsip s.cfg → v = if s.msip then 1#32 else 0#32)
          ∧ (∀ h : Nat, h < 2 → f.ea = Config.clintMtimecmp s.cfg + BitVec.ofNat 32 (4 * h) →
            (∀ k : Nat, k < 4 → 4 ≤ (f.ea + BitVec.ofNat 32 k - Config.clintMsip s.cfg).toNat) →
              v = BitVec.ofNat 32 (s.mtimecmp.toNat / 2 ^ (32 * h)))
          ∧ (∀ h : Nat, h < 2 → f.ea = Config.clintMtime s.cfg + BitVec.ofNat 32 (4 * h) →
            (∀ k : Nat, k < 4 → 4 ≤ (f.ea + BitVec.ofNat 32 k - Config.clintMsip s.cfg).toNat
              ∧ 8 ≤ (f.ea + BitVec.ofNat 32 k - Config.clintMtimecmp s.cfg).toNat) →
              v = BitVec.ofNat 32 (s.mtime.toNat / 2 ^ (32 * h))))

/-- R239, R284: FENCE with any fields, and C.NOP, change nothing but pc. -/
def Obligations.Fences : Prop :=
  ∀ s : State,
    (∀ (fm pred succ : BitVec 4) (rs1 rd : Reg),
      decode (.full (fm ++ pred ++ succ ++ rs1 ++ 0#3 ++ rd ++ 0x0F#7)) = .ok (.fence fm pred succ rs1 rd)
      ∧ ∃ t, exec (.fence fm pred succ rs1 rd) s = .next t ∧ PcEffect (s.pc + 4#32) s t)
    ∧ (∀ imm : BitVec 6,
      decode (.half (0#3 ++ imm.extractLsb' 5 1 ++ 0#5 ++ imm.extractLsb' 0 5 ++ 1#2)) = .ok (.cNop imm)
      ∧ ∃ t, exec (.cNop imm) s = .next t ∧ PcEffect (s.pc + 2#32) s t)

/-- R343, 20_memory R128: after FENCE.I, with any fields, no byte is stale; nothing else but pc changes. -/
def Obligations.FenceI : Prop :=
  ∀ (s : State) (rd rs1 : Reg) (imm : BitVec 12),
    decode (.full (imm ++ rs1 ++ 1#3 ++ rd ++ 0x0F#7)) = .ok (.fenceI rd rs1 imm)
    ∧ ∃ t, exec (.fenceI rd rs1 imm) s = .next t ∧ t.stale = [] ∧ t.pc = s.pc + 4#32 ∧ Retired t ∧ SameRegs s t
      ∧ SameBytes s t ∧ t = { s with stale := t.stale, pc := t.pc, log := t.log }

/-- 20_memory R127, R128: a byte of plain memory is fetched as its present value or as one it had before a store since
the last FENCE.I; a store makes the value it replaces such a one (assumption 13). -/
def Obligations.FetchCoherence : Prop :=
  ∀ (s : State) (a : Word), s.cfg.sharedImemDmem = true →
    (s.fetchByte .memory a = s.byteAt a ∨ s.fetchByte .memory a ∈ s.staleAt a)
    ∧ (s.stale = [] → s.fetchByte .memory a = s.byteAt a)
    ∧ ∀ v : Byte, s.byteAt a ∈ (s.storeByte a v).staleAt a

/-! ### Exceptions, returns, waiting -/

/-- R251. -/
def Obligations.EcallTraps : Prop :=
  ∀ s : State, TakesExceptions s → decode (.full 0x00000073#32) = .ok .ecall
    ∧ ∃ t, exec .ecall s = .next t ∧ TrapEffect false (if s.priv = .U then 8 else 11) 0#32 s.pc s t

/-- R252, R304: EBREAK and C.EBREAK raise Breakpoint, or enter Debug mode when the `dcsr` bit of the mode is set. Where
the hart goes on in Debug mode, `cfg.debugHaltAddr`, is the model's (assumption 21, PRESUMED; 20_memory R117 leaves the
address to the platform). -/
def Obligations.EbreakTraps : Prop :=
  ∀ s : State, TakesExceptions s → decode (.full 0x00100073#32) = .ok .ebreak ∧ decode (.half 0x9002#16) = .ok .cEbreak
    ∧ ∀ i ∈ [Instr.ebreak, .cEbreak],
      ((s.priv = .M ∧ s.dcsr.ebreakm = true) ∨ (s.priv = .U ∧ s.dcsr.ebreaku = true) →
        ∃ t, exec i s = .next t ∧ DebugEntry 1 s.pc s t)
      ∧ (¬((s.priv = .M ∧ s.dcsr.ebreakm = true) ∨ (s.priv = .U ∧ s.dcsr.ebreaku = true)) →
        ∃ t, exec i s = .next t ∧ TrapEffect false 3 0#32 s.pc s t)

/-- R346: MRET outside Debug mode, in each mode, from an ordinary trap and from the NMI handler. -/
def Obligations.MretReturns : Prop :=
  ∀ s : State, s.debugMode = false → decode (.full 0x30200073#32) = .ok .mret
    ∧ (s.priv = .M → ∃ t, exec .mret s = .next t
      ∧ t.mstatus.mie = s.mstatus.mpie ∧ t.priv = s.mstatus.mpp ∧ t.pc = s.mepc
      ∧ t.mstatus.mprv = (if s.mstatus.mpp = .M then s.mstatus.mprv else false) ∧ t.mstatus.tw = s.mstatus.tw
      ∧ t.inNmi = false
      ∧ (if s.inNmi then t.mstatus.mpp = s.nmiSaved.mpp ∧ t.mstatus.mpie = s.nmiSaved.mpie
            ∧ t.mepc = s.nmiSaved.mepc ∧ t.mcause = s.nmiSaved.mcause
          else t.mstatus.mpp = .U ∧ t.mstatus.mpie = true ∧ t.mepc = s.mepc ∧ t.mcause = s.mcause)
      ∧ Retired t ∧ SameRegs s t ∧ SameBytes s t
      ∧ t = { s with mstatus := t.mstatus, priv := t.priv, pc := t.pc, mepc := t.mepc, mcause := t.mcause,
                     inNmi := t.inNmi, log := t.log })
    ∧ (s.priv = .U → s.inNmi = false →
        ∃ t, exec .mret s = .next t ∧ TrapEffect false 2 0x30200073#32 s.pc s t)

/-- 60_exceptions R377: an NMI taken between two instructions and left at once by MRET leaves pc, the mode, MIE, MPIE,
MPP, `mepc` and `mcause` as they were. -/
def Obligations.NmiTransparent : Prop :=
  ∀ s : State, s.debugMode = false → s.inNmi = false → s.pc.getLsbD 0 = false →
    ∃ t, exec .mret s.takeNmi = .next t ∧ t.pc = s.pc ∧ t.priv = s.priv ∧ t.mstatus.mie = s.mstatus.mie
      ∧ t.mstatus.mpie = s.mstatus.mpie ∧ t.mstatus.mpp = s.mstatus.mpp ∧ t.mepc = s.mepc ∧ t.mcause = s.mcause
      ∧ t.inNmi = false ∧ SameRegs s t ∧ SameBytes s t

/-- R347: WFI retires; in Debug mode and when single-stepped it does not sleep; in U-mode with TW set it is illegal. That
it does not sleep when something already wakes it is the model's choice between R347's words and its pseudocode
(assumption 24), on which R347 asks no proof to rest; that it sleeps otherwise is left out for the same reason. -/
def Obligations.WfiRetires : Prop :=
  ∀ s : State, decode (.full 0x10500073#32) = .ok .wfi
    ∧ (¬(s.priv = .U ∧ s.mstatus.tw = true) → ∃ t, exec .wfi s = .next t ∧ t.pc = s.pc + 4#32 ∧ Retired t
      ∧ (t.wfiSleep = true → s.lines.nmi = false ∧ s.lines.debugReq = false ∧ s.mip &&& s.mie = 0#32
          ∧ s.debugMode = false ∧ s.dcsr.step = false)
      ∧ SameRegs s t ∧ SameBytes s t ∧ t = { s with wfiSleep := t.wfiSleep, pc := t.pc, log := t.log })
    ∧ (s.priv = .U ∧ s.mstatus.tw = true → TakesExceptions s →
        ∃ t, exec .wfi s = .next t ∧ TrapEffect false 2 0x10500073#32 s.pc s t)

/-- R347, 60_exceptions R389: a sleeping hart that nothing wakes or resets stays at its pc, asleep, and changes no
register, CSR or memory byte (`s.beginStep` holds what the environment did); `minstret` stands still, and `mcycle` counts
on when CY is clear (10_state R62, U11). That the model's WFI sleeps at all is its choice (assumption 24). -/
def Obligations.WfiSleeps : Prop :=
  ∀ s : State, s.wfiSleep = true → s.input.reset = false → s.sampledLines.nmi = false → s.sampledLines.debugReq = false →
    s.beginStep.mip &&& s.mie = 0#32 →
    ∃ t, Sys2Proof.Machine.step s = .next t ∧ t.pc = s.pc ∧ t.wfiSleep = true ∧ t.minstret = s.minstret
      ∧ t.mcycle = (if s.mcountinhibit.getLsbD 0 = true then s.mcycle
          else s.mcycle + BitVec.ofNat 64 (1 + Config.freeCycles s.draws))
      ∧ SameRegs s t ∧ SameBytes s.beginStep t
      ∧ t = { s.beginStep with mcycle := t.mcycle, hpmcounters := t.hpmcounters, mtime := t.mtime, draws := t.draws,
                               log := t.log }

/-- R348: DRET returns from Debug mode, and is illegal outside it. -/
def Obligations.DretReturns : Prop :=
  ∀ s : State, decode (.full 0x7B200073#32) = .ok .dret
    ∧ (s.debugMode = true → ∃ t, exec .dret s = .next t ∧ t.debugMode = false ∧ t.priv = s.dcsr.prv ∧ t.pc = s.dpc
      ∧ t.mstatus.mprv = (if s.dcsr.prv = .M then s.mstatus.mprv else false)
      ∧ t.mstatus = { s.mstatus with mprv := t.mstatus.mprv } ∧ Retired t ∧ SameRegs s t ∧ SameBytes s t
      ∧ t = { s with debugMode := t.debugMode, priv := t.priv, pc := t.pc, mstatus := t.mstatus, log := t.log })
    ∧ (TakesExceptions s → ∃ t, exec .dret s = .next t ∧ TrapEffect false 2 0x7B200073#32 s.pc s t)

/-- What the spec leaves outside itself stops by name (60_exceptions R377, R384, U5, U30; 20_memory R115, U3;
assumptions 17, 19, 20): an exception inside the NMI handler or in Debug mode, MRET in Debug mode, and a fetch of either
parcel of an instruction from a device region that permits it. -/
def Obligations.StopsByName : Prop :=
  ∀ s : State,
    (s.debugMode = true → exec .mret s = .refused .mretInDebugMode ∧ exec .ecall s = .refused .exceptionInDebugMode
      ∧ exec .ebreak s = .refused .exceptionInDebugMode ∧ exec .cEbreak s = .refused .exceptionInDebugMode)
    ∧ (s.debugMode = false → s.inNmi = true → exec .ecall s = .refused .exceptionInNmi)
    ∧ (∀ (e : Exc) (v : Word), s.raise e v =
        if s.debugMode then .refused .exceptionInDebugMode
        else if s.inNmi then .refused .exceptionInNmi
        else .next (s.trap false e.code v s.pc))
    ∧ (∀ r : Region, s.pc.getLsbD 0 = false → regionAt (Config.fetchMap s.cfg) s.pc = some r → r.kind = .device →
        mayFetch s r = true → s.runInstr = .refused .fetchFromDevice)
    ∧ (∀ (lo : BitVec 16) (r : Region), s.pc.getLsbD 0 = false → StandsAtPc s (.half lo) → lo.toNat % 4 = 3 →
        regionAt (Config.fetchMap s.cfg) (s.pc + 2#32) = some r → r.kind = .device → mayFetch s r = true →
          s.runInstr = .refused .fetchFromDevice)

/-! ### Control and status registers -/

/-- R332..R337: each CSR instruction, when its access is allowed (10_state R31), writes the old value to rd and, if it
writes (R331), the new one to the CSR. -/
def Obligations.CsrInstructions : Prop :=
  ∀ (s : State) (rd rs1 : Reg) (uimm : BitVec 5) (a : CsrAddr) (c : Csr), csrOf a = some c → RegExists s rd →
    (RegExists s rs1 →
      (CsrAllowed s a true →
        decode (.full (a ++ rs1 ++ 1#3 ++ rd ++ 0x73#7)) = .ok (.csrrw rd rs1 a)
        ∧ ∃ t, exec (.csrrw rd rs1 a) s = .next t ∧ CsrEffect c a rd (some (s.reg rs1)) s t)
      ∧ (CsrAllowed s a (decide (rs1 ≠ 0#5)) →
        decode (.full (a ++ rs1 ++ 2#3 ++ rd ++ 0x73#7)) = .ok (.csrrs rd rs1 a)
        ∧ ∃ t, exec (.csrrs rd rs1 a) s = .next t
          ∧ CsrEffect c a rd (if rs1 = 0#5 then none else some (s.readCsr c ||| s.reg rs1)) s t)
      ∧ (CsrAllowed s a (decide (rs1 ≠ 0#5)) →
        decode (.full (a ++ rs1 ++ 3#3 ++ rd ++ 0x73#7)) = .ok (.csrrc rd rs1 a)
        ∧ ∃ t, exec (.csrrc rd rs1 a) s = .next t
          ∧ CsrEffect c a rd (if rs1 = 0#5 then none else some (s.readCsr c &&& ~~~(s.reg rs1))) s t))
    ∧ (CsrAllowed s a true →
        decode (.full (a ++ uimm ++ 5#3 ++ rd ++ 0x73#7)) = .ok (.csrrwi rd uimm a)
        ∧ ∃ t, exec (.csrrwi rd uimm a) s = .next t
          ∧ CsrEffect c a rd (some (BitVec.ofNat 32 uimm.toNat)) s t)
    ∧ (CsrAllowed s a (decide (uimm ≠ 0#5)) →
        decode (.full (a ++ uimm ++ 6#3 ++ rd ++ 0x73#7)) = .ok (.csrrsi rd uimm a)
        ∧ ∃ t, exec (.csrrsi rd uimm a) s = .next t
          ∧ CsrEffect c a rd (if uimm = 0#5 then none else some (s.readCsr c ||| BitVec.ofNat 32 uimm.toNat)) s t)
    ∧ (CsrAllowed s a (decide (uimm ≠ 0#5)) →
        decode (.full (a ++ uimm ++ 7#3 ++ rd ++ 0x73#7)) = .ok (.csrrci rd uimm a)
        ∧ ∃ t, exec (.csrrci rd uimm a) s = .next t
          ∧ CsrEffect c a rd (if uimm = 0#5 then none else some (s.readCsr c &&& ~~~(BitVec.ofNat 32 uimm.toNat))) s t)

/-- 10_state R31, R32, R33, 47_zicsr R330: an access to an unimplemented address, or one that R31 forbids, raises
IllegalInstruction with no other effect. The implemented addresses, and the register each names, are the rows of R32's
table; that these 63 are all, where R32 says 74, is assumption 35 (DEDUCED). -/
def Obligations.CsrDeniedTraps : Prop :=
  (∀ (a : CsrAddr) (c : Csr), csrOf a = some c ↔ (a.toNat, c) ∈ csrTable) ∧
  ∀ (s : State) (rd rs1 : Reg) (uimm : BitVec 5) (a : CsrAddr), TakesExceptions s → RegExists s rd → RegExists s rs1 →
    ∀ (i : Instr) (writes : Bool),
      (i, writes) ∈ [(Instr.csrrw rd rs1 a, true), (.csrrs rd rs1 a, decide (rs1 ≠ 0#5)),
        (.csrrc rd rs1 a, decide (rs1 ≠ 0#5)), (.csrrwi rd uimm a, true), (.csrrsi rd uimm a, decide (uimm ≠ 0#5)),
        (.csrrci rd uimm a, decide (uimm ≠ 0#5))] →
      csrOf a = none ∨ ¬CsrAllowed s a writes →
        ∃ t, exec i s = .next t ∧ TrapEffect false 2 (encode i).toWord s.pc s t

/-- 10_state R34..R45, R48..R50, R59..R61: what each CSR reads after a write of `w`; `mip` is the lines of this step
(60_exceptions R371), and a register that ignores writes changes nothing. -/
def Obligations.CsrWriteMasks : Prop :=
  ∀ (s : State) (w : Word),
    (s.writeCsr .mstatus w).readCsr .mstatus
        = (w &&& 0x00220088#32) ||| (if w.toNat / 2048 % 4 = 0 then 0#32 else 0x00001800#32)
    ∧ (s.writeCsr .misa w).readCsr .misa = (if s.cfg.rv32e then 0x40101014#32 else 0x40101104#32)
    ∧ (s.writeCsr .mie w).readCsr .mie
        = w &&& (0x00000888#32 ||| BitVec.ofNat 32 (s.cfg.customIrqMask.toNat * 65536))
    ∧ (2 ≤ s.cfg.mtvecBaseAlign → s.cfg.mtvecBaseAlign ≤ 31 →
        ((s.writeCsr .mtvec w).readCsr .mtvec).toNat
          = w.toNat / 2 ^ s.cfg.mtvecBaseAlign * 2 ^ s.cfg.mtvecBaseAlign
            + (match s.cfg.mtvecModeFixed with
              | .direct => 0
              | .vectored => 1
              | .free => if w.toNat % 4 < 2 then w.toNat % 4 else s.mtvec.toNat % 4))
    ∧ (s.writeCsr .mcountinhibit w).readCsr .mcountinhibit
        = w &&& (5#32 ||| BitVec.ofNat 32 ((2 ^ s.cfg.hpmNum.val - 1) * 8))
    ∧ (∀ k : Fin 10, (s.writeCsr (.mhpmevent k) w).readCsr (.mhpmevent k)
        = if k.val < s.cfg.hpmNum.val then BitVec.ofNat 32 (2 ^ (k.val + 3)) else 0#32)
    ∧ (s.writeCsr .mscratch w).readCsr .mscratch = w
    ∧ (s.writeCsr .mepc w).readCsr .mepc = w &&& 0xFFFFFFFE#32
    ∧ (w ∈ [0#32, 1#32, 2#32, 3#32, 5#32, 7#32, 8#32, 11#32, 0x80000003#32, 0x80000007#32, 0x8000000B#32,
          0x80000020#32]
        ∨ (∃ n : Nat, 16 ≤ n ∧ n ≤ 31 ∧ s.cfg.customIrqMask.getLsbD (n - 16) = true
            ∧ w = BitVec.ofNat 32 (2 ^ 31 + n)) →
        (s.writeCsr .mcause w).readCsr .mcause = w)
    ∧ (s.writeCsr .mtval w).readCsr .mtval = w
    ∧ (s.readCsr .mip).toNat
        = (if s.lines.software then 2 ^ 3 else 0) + (if s.lines.timer then 2 ^ 7 else 0)
          + (if s.lines.external then 2 ^ 11 else 0) + 2 ^ 16 * (s.lines.custom &&& s.cfg.customIrqMask).toNat
    ∧ s.mip = s.readCsr .mip
    ∧ (∀ c ∈ [Csr.misa, .mip, .tdata3, .mcontext, .scontext], s.writeCsr c w = s)
    ∧ s.readCsr .tdata3 = 0#32 ∧ s.readCsr .mcontext = 0#32 ∧ s.readCsr .scontext = 0#32
    ∧ s.readCsr .mvendorid = s.cfg.mvendorid ∧ s.readCsr .marchid = s.cfg.marchid
    ∧ s.readCsr .mimpid = s.cfg.mimpid ∧ s.readCsr .mhartid = s.cfg.mhartid
    ∧ (s.writeCsr .tselect w).readCsr .tselect = (if w.toNat < s.cfg.dbgTriggers then w else s.tselect)

/-- 10_state R46, R47, R51..R53, R55..R57: what the counters, the Debug-mode registers and the triggers read after a
write of `w`; a trigger changes in Debug mode only. A `dcsr.prv` of 0b01 or 0b10 is left out (assumption 22). -/
def Obligations.CounterAndDebugWrites : Prop :=
  ∀ (s : State) (w : Word),
    (s.writeCsr .mcycle w).readCsr .mcycle = w ∧ (s.writeCsr .mcycleh w).readCsr .mcycleh = w
    ∧ (s.writeCsr .minstret w).readCsr .minstret = w ∧ (s.writeCsr .minstreth w).readCsr .minstreth = w
    ∧ (32 ≤ s.cfg.hpmWidth → s.cfg.hpmWidth ≤ 64 → ∀ k : Fin 10,
        (s.writeCsr (.mhpmcounter k) w).readCsr (.mhpmcounter k) = (if k.val < s.cfg.hpmNum.val then w else 0#32)
        ∧ ((s.writeCsr (.mhpmcounterh k) w).readCsr (.mhpmcounterh k)).toNat
            = (if k.val < s.cfg.hpmNum.val then w.toNat % 2 ^ (s.cfg.hpmWidth - 32) else 0))
    ∧ (s.writeCsr .dpc w).readCsr .dpc = w &&& 0xFFFFFFFE#32
    ∧ (s.writeCsr .dscratch0 w).readCsr .dscratch0 = w ∧ (s.writeCsr .dscratch1 w).readCsr .dscratch1 = w
    ∧ (w.toNat % 4 = 0 ∨ w.toNat % 4 = 3 → (s.writeCsr .dcsr w).readCsr .dcsr
        = 0x40000000#32 ||| (w &&& 0x00009807#32) ||| (s.readCsr .dcsr &&& 0x000001C0#32))
    ∧ (s.debugMode = false → s.writeCsr .tdata1 w = s ∧ s.writeCsr .tdata2 w = s)
    ∧ (s.debugMode = true → s.tselect.toNat < s.triggers.length →
        (s.writeCsr .tdata1 w).readCsr .tdata1 = (if w.toNat / 4 % 2 = 1 then 0x2800104C#32 else 0x28001048#32)
        ∧ (s.writeCsr .tdata2 w).readCsr .tdata2 = w)

/-- A write to one CSR changes what no other CSR reads, but for the shadows of a counter and what `tselect` selects;
and no general register, memory byte, pc or mode. -/
def Obligations.CsrWriteFrame : Prop :=
  ∀ (s : State) (c d : Csr) (w : Word), (∀ k : Fin 10, s.hpmcounters[k] &&& ~~~(Config.hpmMask s.cfg) = 0#64) →
    ¬c.reflects d →
      (s.writeCsr c w).readCsr d = s.readCsr d ∧ SameRegs s (s.writeCsr c w) ∧ SameBytes s (s.writeCsr c w)
        ∧ (s.writeCsr c w).pc = s.pc ∧ (s.writeCsr c w).priv = s.priv ∧ (s.writeCsr c w).debugMode = s.debugMode

/-- 10_state R58: a read of a user counter gives the half of the machine counter, in M-mode, and in U-mode when
U_COUNTER_ACCESS. -/
def Obligations.CounterShadows : Prop :=
  ∀ (s : State) (rd : Reg), RegExists s rd → s.priv = .M ∨ s.cfg.uCounterAccess = true →
    (∃ t, exec (.csrrs rd 0#5 0xC00#12) s = .next t
      ∧ RegEffect rd (BitVec.ofNat 32 s.mcycle.toNat) (s.pc + 4#32) s t)
    ∧ (∃ t, exec (.csrrs rd 0#5 0xC80#12) s = .next t
      ∧ RegEffect rd (BitVec.ofNat 32 (s.mcycle.toNat / 2 ^ 32)) (s.pc + 4#32) s t)
    ∧ (∃ t, exec (.csrrs rd 0#5 0xC02#12) s = .next t
      ∧ RegEffect rd (BitVec.ofNat 32 s.minstret.toNat) (s.pc + 4#32) s t)
    ∧ (∃ t, exec (.csrrs rd 0#5 0xC82#12) s = .next t
      ∧ RegEffect rd (BitVec.ofNat 32 (s.minstret.toNat / 2 ^ 32)) (s.pc + 4#32) s t)

/-- 10_state R38, R55, R56, R62: a step that runs an instruction adds one to `minstret` when the instruction retires and
IR was clear at the start, unless it wrote the counter itself, whose value then stands; else not. It advances `mcycle` by
1 + a free amount when CY was clear, unless it wrote it (assumptions 10, 33), and each implemented event counter by a free
amount, cut to its width (assumption 11). A step that sleeps, takes an interrupt, the NMI or a Debug entry instead, or
whose instruction does not retire (a failed fetch and an illegal word included), leaves `minstret` and advances the
others all the same. A step in U-mode, whatever it does, moves `minstret` by one or not at all, and `mcycle` by 1 + a free
amount. -/
def Obligations.StepCounting : Prop :=
  (∀ (s u : State) (i : Instr), s.input.reset = false → s.beginStep.staysAsleep = false →
    s.beginStep.awake.preempt = none → s.pc.getLsbD 0 = false → i.wellFormed = true →
    StandsAtPc s.beginStep (encode i) → exec i s.beginStep.awake = .next u →
      ∃ t, Sys2Proof.Machine.step s = .next t
        ∧ t.minstret = (if u.log.wroteCsr = some 0xB02#12 ∨ u.log.wroteCsr = some 0xB82#12 then u.minstret
            else if u.log.retired = true ∧ s.mcountinhibit.getLsbD 2 = false then s.minstret + 1#64 else s.minstret)
        ∧ t.mcycle = (if u.log.wroteCsr = some 0xB00#12 ∨ u.log.wroteCsr = some 0xB80#12 then u.mcycle
            else if s.mcountinhibit.getLsbD 0 = false then
              s.mcycle + BitVec.ofNat 64 (1 + Config.freeCycles s.draws)
            else s.mcycle)
        ∧ ∀ k : Fin 10, t.hpmcounters[k]
            = (if k.val < s.cfg.hpmNum.val ∧ s.mcountinhibit.getLsbD (k.val + 3) = false then
                (u.hpmcounters[k] + BitVec.ofNat 64 (Config.freeEvents k.val s.draws)) &&& Config.hpmMask s.cfg
              else u.hpmcounters[k]))
  ∧ (∀ s t : State, s.input.reset = false → Sys2Proof.Machine.step s = .next t →
      s.beginStep.staysAsleep = true ∨ s.beginStep.awake.preempt.isSome = true
        ∨ (∃ u, s.beginStep.awake.runInstr = .next u ∧ u.log.retired = false) →
        t.minstret = s.minstret
        ∧ t.mcycle = (if s.mcountinhibit.getLsbD 0 = true then s.mcycle
            else s.mcycle + BitVec.ofNat 64 (1 + Config.freeCycles s.draws))
        ∧ ∀ k : Fin 10, t.hpmcounters[k]
            = (if k.val < s.cfg.hpmNum.val ∧ s.mcountinhibit.getLsbD (k.val + 3) = false then
                (s.hpmcounters[k] + BitVec.ofNat 64 (Config.freeEvents k.val s.draws)) &&& Config.hpmMask s.cfg
              else s.hpmcounters[k]))
  ∧ ∀ s t : State, s.priv = .U → s.debugMode = false → s.input.reset = false →
      Sys2Proof.Machine.step s = .next t →
        (t.minstret = s.minstret ∨ (t.minstret = s.minstret + 1#64 ∧ s.mcountinhibit.getLsbD 2 = false))
        ∧ t.mcycle = (if s.mcountinhibit.getLsbD 0 = true then s.mcycle
            else s.mcycle + BitVec.ofNat 64 (1 + Config.freeCycles s.draws))

/-! ### Interrupts and Debug mode -/

/-- 60_exceptions R372..R374: outside Debug mode and the NMI handler, with no debug request, NMI or single step, a step
takes, of the pending and enabled interrupts, the one of highest priority. -/
def Obligations.InterruptTaken : Prop :=
  ∀ (s : State) (n : Nat), s.input.reset = false → s.debugMode = false → s.inNmi = false → s.dcsr.step = false →
    s.sampledLines.debugReq = false → s.sampledLines.nmi = false → s.priv = .U ∨ s.mstatus.mie = true →
    IsInterrupt n → PendingEnabled s.beginStep n →
    (∀ m : Nat, IsInterrupt m → PendingEnabled s.beginStep m → interruptRank n ≤ interruptRank m) →
      ∃ u, Sys2Proof.Machine.step s = .next (s.beginStep.awake.tick u)
        ∧ TrapEffect true n 0#32 s.pc s.beginStep.awake u

/-- 60_exceptions R372, R376: outside Debug mode and the NMI handler a step takes the NMI whatever `mstatus.MIE` and
`mie` hold, saving the trap context. -/
def Obligations.NmiTaken : Prop :=
  ∀ s : State, s.input.reset = false → s.debugMode = false → s.inNmi = false → s.dcsr.step = false →
    s.sampledLines.debugReq = false → s.sampledLines.nmi = true →
      ∃ u, Sys2Proof.Machine.step s = .next (s.beginStep.awake.tick u) ∧ u.inNmi = true
        ∧ u.nmiSaved = ⟨s.mstatus.mpp, s.mstatus.mpie, s.mepc, s.mcause⟩
        ∧ TrapEffect true 32 0#32 s.pc { s.beginStep.awake with nmiSaved := u.nmiSaved, inNmi := true } u

/-- 60_exceptions R373: nothing comes before the instruction at pc while no debug request, NMI or trigger asks for it
and every interrupt is masked: not pending and enabled, MIE clear in M-mode, or inside the NMI handler. -/
def Obligations.InterruptsMasked : Prop :=
  ∀ s : State, s.lines.debugReq = false → s.lines.nmi = false ∨ s.inNmi = true → s.triggerHit = false →
    s.mip &&& s.mie = 0#32 ∨ (s.priv = .M ∧ s.mstatus.mie = false) ∨ s.inNmi = true → s.preempt = none

/-- 60_exceptions R385, 10_state R46, R47, R51: a debug request enters Debug mode before anything else, and an armed
trigger at pc when nothing else comes first. The order is the model's (assumption 21). -/
def Obligations.DebugEntries : Prop :=
  ∀ s : State, s.debugMode = false →
    (s.lines.debugReq = true → ∃ u, s.preempt = some u ∧ DebugEntry 3 s.pc s u)
    ∧ (s.lines.debugReq = false → s.lines.nmi = false → s.mip &&& s.mie = 0#32 →
        (∃ k ∈ s.triggers, k.execute = true ∧ k.address = s.pc) →
          ∃ u, s.preempt = some u ∧ DebugEntry 2 s.pc s u)

/-! ### Every instruction -/

/-- 44_rv32e R261: an instruction that uses a register this instance lacks raises IllegalInstruction with its bits,
before anything else it could do. -/
def Obligations.MissingRegisterTraps : Prop :=
  ∀ (s : State) (i : Instr) (r : Reg), TakesExceptions s → r ∈ usedRegs i → ¬RegExists s r →
    ∃ t, exec i s = .next t ∧ TrapEffect false 2 (encode i).toWord s.pc s t

/-- 60_exceptions R384, 10_state R26: no instruction lets U-mode change machine state or leave U-mode but by a trap to
the vector of `mtvec` (or by entry to Debug mode). -/
def Obligations.UserModeConfined : Prop :=
  ∀ (s t : State) (i : Instr), s.priv = .U → s.debugMode = false → exec i s = .next t →
    t.mtvec = s.mtvec ∧ t.mie = s.mie ∧ t.mscratch = s.mscratch ∧ t.mcountinhibit = s.mcountinhibit
      ∧ t.tselect = s.tselect ∧ t.triggers = s.triggers ∧ t.dscratch0 = s.dscratch0 ∧ t.dscratch1 = s.dscratch1
      ∧ t.cpuctrl = s.cpuctrl ∧ t.mcycle = s.mcycle ∧ t.minstret = s.minstret ∧ t.hpmcounters = s.hpmcounters
      ∧ t.inNmi = s.inNmi ∧ t.nmiSaved = s.nmiSaved ∧ t.imem = s.imem ∧ t.cfg = s.cfg
      ∧ (t.priv = .U → t.mstatus = s.mstatus ∧ t.mepc = s.mepc ∧ t.mcause = s.mcause ∧ t.mtval = s.mtval
          ∧ t.dcsr = s.dcsr ∧ t.dpc = s.dpc ∧ t.debugMode = false)
      ∧ (t.priv = .M → t.debugMode = true
          ∨ (t.pc.toNat = 4 * (s.mtvec.toNat / 4) ∧ t.mepc = evenAddr s.pc ∧ t.mstatus.mpp = .U
              ∧ t.mstatus.mie = false ∧ t.mstatus.mprv = s.mstatus.mprv))

/-- 60_exceptions R360: an instruction that does not retire changes no general register, and no memory byte unless it
is a store; outside Debug-mode entry `mepc` is its address. -/
def Obligations.PreciseTraps : Prop :=
  ∀ (s t : State) (i : Instr), exec i s = .next t → t.log.retired = false →
    SameRegs s t ∧ (t.debugMode = false → t.mepc = evenAddr s.pc ∧ t.priv = .M)
      ∧ ((∀ rs1 rs2 imm, i ≠ .sb rs1 rs2 imm) → (∀ rs1 rs2 imm, i ≠ .sh rs1 rs2 imm) →
          (∀ rs1 rs2 imm, i ≠ .sw rs1 rs2 imm) → (∀ rs1 rs2 imm, i ≠ .cSw rs1 rs2 imm) →
          (∀ rs2 imm, i ≠ .cSwsp rs2 imm) → SameBytes s t)
end

