-- ==== Sys2Proof/Laws/State.lean ====
section
/-! SUPPORT. What each update of the state leaves in each field: the frame of every named operation, for `simp`. -/

namespace Sys2Proof.Machine

open Sys2Proof

/-! ### retire -/

@[simp] theorem State.retire_cfg (s : State) (n : Word) : (s.retire n).cfg = s.cfg := rfl
@[simp] theorem State.retire_regs (s : State) (n : Word) : (s.retire n).regs = s.regs := rfl
@[simp] theorem State.retire_pc (s : State) (n : Word) : (s.retire n).pc = n := rfl
@[simp] theorem State.retire_priv (s : State) (n : Word) : (s.retire n).priv = s.priv := rfl
@[simp] theorem State.retire_debugMode (s : State) (n : Word) : (s.retire n).debugMode = s.debugMode := rfl
@[simp] theorem State.retire_wfiSleep (s : State) (n : Word) : (s.retire n).wfiSleep = s.wfiSleep := rfl
@[simp] theorem State.retire_inNmi (s : State) (n : Word) : (s.retire n).inNmi = s.inNmi := rfl
@[simp] theorem State.retire_nmiSaved (s : State) (n : Word) : (s.retire n).nmiSaved = s.nmiSaved := rfl
@[simp] theorem State.retire_mstatus (s : State) (n : Word) : (s.retire n).mstatus = s.mstatus := rfl
@[simp] theorem State.retire_mie (s : State) (n : Word) : (s.retire n).mie = s.mie := rfl
@[simp] theorem State.retire_mtvec (s : State) (n : Word) : (s.retire n).mtvec = s.mtvec := rfl
@[simp] theorem State.retire_mcountinhibit (s : State) (n : Word) : (s.retire n).mcountinhibit = s.mcountinhibit := rfl
@[simp] theorem State.retire_mscratch (s : State) (n : Word) : (s.retire n).mscratch = s.mscratch := rfl
@[simp] theorem State.retire_mepc (s : State) (n : Word) : (s.retire n).mepc = s.mepc := rfl
@[simp] theorem State.retire_mcause (s : State) (n : Word) : (s.retire n).mcause = s.mcause := rfl
@[simp] theorem State.retire_mtval (s : State) (n : Word) : (s.retire n).mtval = s.mtval := rfl
@[simp] theorem State.retire_tselect (s : State) (n : Word) : (s.retire n).tselect = s.tselect := rfl
@[simp] theorem State.retire_triggers (s : State) (n : Word) : (s.retire n).triggers = s.triggers := rfl
@[simp] theorem State.retire_dcsr (s : State) (n : Word) : (s.retire n).dcsr = s.dcsr := rfl
@[simp] theorem State.retire_dpc (s : State) (n : Word) : (s.retire n).dpc = s.dpc := rfl
@[simp] theorem State.retire_dscratch0 (s : State) (n : Word) : (s.retire n).dscratch0 = s.dscratch0 := rfl
@[simp] theorem State.retire_dscratch1 (s : State) (n : Word) : (s.retire n).dscratch1 = s.dscratch1 := rfl
@[simp] theorem State.retire_cpuctrl (s : State) (n : Word) : (s.retire n).cpuctrl = s.cpuctrl := rfl
@[simp] theorem State.retire_mcycle (s : State) (n : Word) : (s.retire n).mcycle = s.mcycle := rfl
@[simp] theorem State.retire_minstret (s : State) (n : Word) : (s.retire n).minstret = s.minstret := rfl
@[simp] theorem State.retire_hpmcounters (s : State) (n : Word) : (s.retire n).hpmcounters = s.hpmcounters := rfl
@[simp] theorem State.retire_msip (s : State) (n : Word) : (s.retire n).msip = s.msip := rfl
@[simp] theorem State.retire_mtimecmp (s : State) (n : Word) : (s.retire n).mtimecmp = s.mtimecmp := rfl
@[simp] theorem State.retire_mtime (s : State) (n : Word) : (s.retire n).mtime = s.mtime := rfl
@[simp] theorem State.retire_lines (s : State) (n : Word) : (s.retire n).lines = s.lines := rfl
@[simp] theorem State.retire_inputs (s : State) (n : Word) : (s.retire n).inputs = s.inputs := rfl
@[simp] theorem State.retire_mem (s : State) (n : Word) : (s.retire n).mem = s.mem := rfl
@[simp] theorem State.retire_imem (s : State) (n : Word) : (s.retire n).imem = s.imem := rfl
@[simp] theorem State.retire_stale (s : State) (n : Word) : (s.retire n).stale = s.stale := rfl
@[simp] theorem State.retire_device (s : State) (n : Word) : (s.retire n).device = s.device := rfl
@[simp] theorem State.retire_draws (s : State) (n : Word) : (s.retire n).draws = s.draws := rfl
@[simp] theorem State.retire_log (s : State) (n : Word) : (s.retire n).log = ⟨true, none⟩ := rfl

/-! ### retireCsr -/

@[simp] theorem State.retireCsr_cfg (s : State) (n : Word) (c : Option CsrAddr) : (s.retireCsr n c).cfg = s.cfg := rfl
@[simp] theorem State.retireCsr_regs (s : State) (n : Word) (c : Option CsrAddr) : (s.retireCsr n c).regs = s.regs := rfl
@[simp] theorem State.retireCsr_pc (s : State) (n : Word) (c : Option CsrAddr) : (s.retireCsr n c).pc = n := rfl
@[simp] theorem State.retireCsr_priv (s : State) (n : Word) (c : Option CsrAddr) : (s.retireCsr n c).priv = s.priv := rfl
@[simp] theorem State.retireCsr_debugMode (s : State) (n : Word) (c : Option CsrAddr) : (s.retireCsr n c).debugMode = s.debugMode := rfl
@[simp] theorem State.retireCsr_wfiSleep (s : State) (n : Word) (c : Option CsrAddr) : (s.retireCsr n c).wfiSleep = s.wfiSleep := rfl
@[simp] theorem State.retireCsr_inNmi (s : State) (n : Word) (c : Option CsrAddr) : (s.retireCsr n c).inNmi = s.inNmi := rfl
@[simp] theorem State.retireCsr_nmiSaved (s : State) (n : Word) (c : Option CsrAddr) : (s.retireCsr n c).nmiSaved = s.nmiSaved := rfl
@[simp] theorem State.retireCsr_mstatus (s : State) (n : Word) (c : Option CsrAddr) : (s.retireCsr n c).mstatus = s.mstatus := rfl
@[simp] theorem State.retireCsr_mie (s : State) (n : Word) (c : Option CsrAddr) : (s.retireCsr n c).mie = s.mie := rfl
@[simp] theorem State.retireCsr_mtvec (s : State) (n : Word) (c : Option CsrAddr) : (s.retireCsr n c).mtvec = s.mtvec := rfl
@[simp] theorem State.retireCsr_mcountinhibit (s : State) (n : Word) (c : Option CsrAddr) : (s.retireCsr n c).mcountinhibit = s.mcountinhibit := rfl
@[simp] theorem State.retireCsr_mscratch (s : State) (n : Word) (c : Option CsrAddr) : (s.retireCsr n c).mscratch = s.mscratch := rfl
@[simp] theorem State.retireCsr_mepc (s : State) (n : Word) (c : Option CsrAddr) : (s.retireCsr n c).mepc = s.mepc := rfl
@[simp] theorem State.retireCsr_mcause (s : State) (n : Word) (c : Option CsrAddr) : (s.retireCsr n c).mcause = s.mcause := rfl
@[simp] theorem State.retireCsr_mtval (s : State) (n : Word) (c : Option CsrAddr) : (s.retireCsr n c).mtval = s.mtval := rfl
@[simp] theorem State.retireCsr_tselect (s : State) (n : Word) (c : Option CsrAddr) : (s.retireCsr n c).tselect = s.tselect := rfl
@[simp] theorem State.retireCsr_triggers (s : State) (n : Word) (c : Option CsrAddr) : (s.retireCsr n c).triggers = s.triggers := rfl
@[simp] theorem State.retireCsr_dcsr (s : State) (n : Word) (c : Option CsrAddr) : (s.retireCsr n c).dcsr = s.dcsr := rfl
@[simp] theorem State.retireCsr_dpc (s : State) (n : Word) (c : Option CsrAddr) : (s.retireCsr n c).dpc = s.dpc := rfl
@[simp] theorem State.retireCsr_dscratch0 (s : State) (n : Word) (c : Option CsrAddr) : (s.retireCsr n c).dscratch0 = s.dscratch0 := rfl
@[simp] theorem State.retireCsr_dscratch1 (s : State) (n : Word) (c : Option CsrAddr) : (s.retireCsr n c).dscratch1 = s.dscratch1 := rfl
@[simp] theorem State.retireCsr_cpuctrl (s : State) (n : Word) (c : Option CsrAddr) : (s.retireCsr n c).cpuctrl = s.cpuctrl := rfl
@[simp] theorem State.retireCsr_mcycle (s : State) (n : Word) (c : Option CsrAddr) : (s.retireCsr n c).mcycle = s.mcycle := rfl
@[simp] theorem State.retireCsr_minstret (s : State) (n : Word) (c : Option CsrAddr) : (s.retireCsr n c).minstret = s.minstret := rfl
@[simp] theorem State.retireCsr_hpmcounters (s : State) (n : Word) (c : Option CsrAddr) : (s.retireCsr n c).hpmcounters = s.hpmcounters := rfl
@[simp] theorem State.retireCsr_msip (s : State) (n : Word) (c : Option CsrAddr) : (s.retireCsr n c).msip = s.msip := rfl
@[simp] theorem State.retireCsr_mtimecmp (s : State) (n : Word) (c : Option CsrAddr) : (s.retireCsr n c).mtimecmp = s.mtimecmp := rfl
@[simp] theorem State.retireCsr_mtime (s : State) (n : Word) (c : Option CsrAddr) : (s.retireCsr n c).mtime = s.mtime := rfl
@[simp] theorem State.retireCsr_lines (s : State) (n : Word) (c : Option CsrAddr) : (s.retireCsr n c).lines = s.lines := rfl
@[simp] theorem State.retireCsr_inputs (s : State) (n : Word) (c : Option CsrAddr) : (s.retireCsr n c).inputs = s.inputs := rfl
@[simp] theorem State.retireCsr_mem (s : State) (n : Word) (c : Option CsrAddr) : (s.retireCsr n c).mem = s.mem := rfl
@[simp] theorem State.retireCsr_imem (s : State) (n : Word) (c : Option CsrAddr) : (s.retireCsr n c).imem = s.imem := rfl
@[simp] theorem State.retireCsr_stale (s : State) (n : Word) (c : Option CsrAddr) : (s.retireCsr n c).stale = s.stale := rfl
@[simp] theorem State.retireCsr_device (s : State) (n : Word) (c : Option CsrAddr) : (s.retireCsr n c).device = s.device := rfl
@[simp] theorem State.retireCsr_draws (s : State) (n : Word) (c : Option CsrAddr) : (s.retireCsr n c).draws = s.draws := rfl
@[simp] theorem State.retireCsr_log (s : State) (n : Word) (c : Option CsrAddr) : (s.retireCsr n c).log = ⟨true, c⟩ := rfl

/-! ### setReg -/

@[simp] theorem State.setReg_cfg (s : State) (r : Reg) (v : Word) : (s.setReg r v).cfg = s.cfg := by
  unfold State.setReg; split <;> rfl
@[simp] theorem State.setReg_pc (s : State) (r : Reg) (v : Word) : (s.setReg r v).pc = s.pc := by
  unfold State.setReg; split <;> rfl
@[simp] theorem State.setReg_priv (s : State) (r : Reg) (v : Word) : (s.setReg r v).priv = s.priv := by
  unfold State.setReg; split <;> rfl
@[simp] theorem State.setReg_debugMode (s : State) (r : Reg) (v : Word) : (s.setReg r v).debugMode = s.debugMode := by
  unfold State.setReg; split <;> rfl
@[simp] theorem State.setReg_wfiSleep (s : State) (r : Reg) (v : Word) : (s.setReg r v).wfiSleep = s.wfiSleep := by
  unfold State.setReg; split <;> rfl
@[simp] theorem State.setReg_inNmi (s : State) (r : Reg) (v : Word) : (s.setReg r v).inNmi = s.inNmi := by
  unfold State.setReg; split <;> rfl
@[simp] theorem State.setReg_nmiSaved (s : State) (r : Reg) (v : Word) : (s.setReg r v).nmiSaved = s.nmiSaved := by
  unfold State.setReg; split <;> rfl
@[simp] theorem State.setReg_mstatus (s : State) (r : Reg) (v : Word) : (s.setReg r v).mstatus = s.mstatus := by
  unfold State.setReg; split <;> rfl
@[simp] theorem State.setReg_mie (s : State) (r : Reg) (v : Word) : (s.setReg r v).mie = s.mie := by
  unfold State.setReg; split <;> rfl
@[simp] theorem State.setReg_mtvec (s : State) (r : Reg) (v : Word) : (s.setReg r v).mtvec = s.mtvec := by
  unfold State.setReg; split <;> rfl
@[simp] theorem State.setReg_mcountinhibit (s : State) (r : Reg) (v : Word) : (s.setReg r v).mcountinhibit = s.mcountinhibit := by
  unfold State.setReg; split <;> rfl
@[simp] theorem State.setReg_mscratch (s : State) (r : Reg) (v : Word) : (s.setReg r v).mscratch = s.mscratch := by
  unfold State.setReg; split <;> rfl
@[simp] theorem State.setReg_mepc (s : State) (r : Reg) (v : Word) : (s.setReg r v).mepc = s.mepc := by
  unfold State.setReg; split <;> rfl
@[simp] theorem State.setReg_mcause (s : State) (r : Reg) (v : Word) : (s.setReg r v).mcause = s.mcause := by
  unfold State.setReg; split <;> rfl
@[simp] theorem State.setReg_mtval (s : State) (r : Reg) (v : Word) : (s.setReg r v).mtval = s.mtval := by
  unfold State.setReg; split <;> rfl
@[simp] theorem State.setReg_tselect (s : State) (r : Reg) (v : Word) : (s.setReg r v).tselect = s.tselect := by
  unfold State.setReg; split <;> rfl
@[simp] theorem State.setReg_triggers (s : State) (r : Reg) (v : Word) : (s.setReg r v).triggers = s.triggers := by
  unfold State.setReg; split <;> rfl
@[simp] theorem State.setReg_dcsr (s : State) (r : Reg) (v : Word) : (s.setReg r v).dcsr = s.dcsr := by
  unfold State.setReg; split <;> rfl
@[simp] theorem State.setReg_dpc (s : State) (r : Reg) (v : Word) : (s.setReg r v).dpc = s.dpc := by
  unfold State.setReg; split <;> rfl
@[simp] theorem State.setReg_dscratch0 (s : State) (r : Reg) (v : Word) : (s.setReg r v).dscratch0 = s.dscratch0 := by
  unfold State.setReg; split <;> rfl
@[simp] theorem State.setReg_dscratch1 (s : State) (r : Reg) (v : Word) : (s.setReg r v).dscratch1 = s.dscratch1 := by
  unfold State.setReg; split <;> rfl
@[simp] theorem State.setReg_cpuctrl (s : State) (r : Reg) (v : Word) : (s.setReg r v).cpuctrl = s.cpuctrl := by
  unfold State.setReg; split <;> rfl
@[simp] theorem State.setReg_mcycle (s : State) (r : Reg) (v : Word) : (s.setReg r v).mcycle = s.mcycle := by
  unfold State.setReg; split <;> rfl
@[simp] theorem State.setReg_minstret (s : State) (r : Reg) (v : Word) : (s.setReg r v).minstret = s.minstret := by
  unfold State.setReg; split <;> rfl
@[simp] theorem State.setReg_hpmcounters (s : State) (r : Reg) (v : Word) : (s.setReg r v).hpmcounters = s.hpmcounters := by
  unfold State.setReg; split <;> rfl
@[simp] theorem State.setReg_msip (s : State) (r : Reg) (v : Word) : (s.setReg r v).msip = s.msip := by
  unfold State.setReg; split <;> rfl
@[simp] theorem State.setReg_mtimecmp (s : State) (r : Reg) (v : Word) : (s.setReg r v).mtimecmp = s.mtimecmp := by
  unfold State.setReg; split <;> rfl
@[simp] theorem State.setReg_mtime (s : State) (r : Reg) (v : Word) : (s.setReg r v).mtime = s.mtime := by
  unfold State.setReg; split <;> rfl
@[simp] theorem State.setReg_lines (s : State) (r : Reg) (v : Word) : (s.setReg r v).lines = s.lines := by
  unfold State.setReg; split <;> rfl
@[simp] theorem State.setReg_inputs (s : State) (r : Reg) (v : Word) : (s.setReg r v).inputs = s.inputs := by
  unfold State.setReg; split <;> rfl
@[simp] theorem State.setReg_mem (s : State) (r : Reg) (v : Word) : (s.setReg r v).mem = s.mem := by
  unfold State.setReg; split <;> rfl
@[simp] theorem State.setReg_imem (s : State) (r : Reg) (v : Word) : (s.setReg r v).imem = s.imem := by
  unfold State.setReg; split <;> rfl
@[simp] theorem State.setReg_stale (s : State) (r : Reg) (v : Word) : (s.setReg r v).stale = s.stale := by
  unfold State.setReg; split <;> rfl
@[simp] theorem State.setReg_device (s : State) (r : Reg) (v : Word) : (s.setReg r v).device = s.device := by
  unfold State.setReg; split <;> rfl
@[simp] theorem State.setReg_draws (s : State) (r : Reg) (v : Word) : (s.setReg r v).draws = s.draws := by
  unfold State.setReg; split <;> rfl
@[simp] theorem State.setReg_log (s : State) (r : Reg) (v : Word) : (s.setReg r v).log = s.log := by
  unfold State.setReg; split <;> rfl

/-! ### storeByte -/

@[simp] theorem State.storeByte_cfg (s : State) (a : Word) (v : Byte) : (s.storeByte a v).cfg = s.cfg := rfl
@[simp] theorem State.storeByte_regs (s : State) (a : Word) (v : Byte) : (s.storeByte a v).regs = s.regs := rfl
@[simp] theorem State.storeByte_pc (s : State) (a : Word) (v : Byte) : (s.storeByte a v).pc = s.pc := rfl
@[simp] theorem State.storeByte_priv (s : State) (a : Word) (v : Byte) : (s.storeByte a v).priv = s.priv := rfl
@[simp] theorem State.storeByte_debugMode (s : State) (a : Word) (v : Byte) : (s.storeByte a v).debugMode = s.debugMode := rfl
@[simp] theorem State.storeByte_wfiSleep (s : State) (a : Word) (v : Byte) : (s.storeByte a v).wfiSleep = s.wfiSleep := rfl
@[simp] theorem State.storeByte_inNmi (s : State) (a : Word) (v : Byte) : (s.storeByte a v).inNmi = s.inNmi := rfl
@[simp] theorem State.storeByte_nmiSaved (s : State) (a : Word) (v : Byte) : (s.storeByte a v).nmiSaved = s.nmiSaved := rfl
@[simp] theorem State.storeByte_mstatus (s : State) (a : Word) (v : Byte) : (s.storeByte a v).mstatus = s.mstatus := rfl
@[simp] theorem State.storeByte_mie (s : State) (a : Word) (v : Byte) : (s.storeByte a v).mie = s.mie := rfl
@[simp] theorem State.storeByte_mtvec (s : State) (a : Word) (v : Byte) : (s.storeByte a v).mtvec = s.mtvec := rfl
@[simp] theorem State.storeByte_mcountinhibit (s : State) (a : Word) (v : Byte) : (s.storeByte a v).mcountinhibit = s.mcountinhibit := rfl
@[simp] theorem State.storeByte_mscratch (s : State) (a : Word) (v : Byte) : (s.storeByte a v).mscratch = s.mscratch := rfl
@[simp] theorem State.storeByte_mepc (s : State) (a : Word) (v : Byte) : (s.storeByte a v).mepc = s.mepc := rfl
@[simp] theorem State.storeByte_mcause (s : State) (a : Word) (v : Byte) : (s.storeByte a v).mcause = s.mcause := rfl
@[simp] theorem State.storeByte_mtval (s : State) (a : Word) (v : Byte) : (s.storeByte a v).mtval = s.mtval := rfl
@[simp] theorem State.storeByte_tselect (s : State) (a : Word) (v : Byte) : (s.storeByte a v).tselect = s.tselect := rfl
@[simp] theorem State.storeByte_triggers (s : State) (a : Word) (v : Byte) : (s.storeByte a v).triggers = s.triggers := rfl
@[simp] theorem State.storeByte_dcsr (s : State) (a : Word) (v : Byte) : (s.storeByte a v).dcsr = s.dcsr := rfl
@[simp] theorem State.storeByte_dpc (s : State) (a : Word) (v : Byte) : (s.storeByte a v).dpc = s.dpc := rfl
@[simp] theorem State.storeByte_dscratch0 (s : State) (a : Word) (v : Byte) : (s.storeByte a v).dscratch0 = s.dscratch0 := rfl
@[simp] theorem State.storeByte_dscratch1 (s : State) (a : Word) (v : Byte) : (s.storeByte a v).dscratch1 = s.dscratch1 := rfl
@[simp] theorem State.storeByte_cpuctrl (s : State) (a : Word) (v : Byte) : (s.storeByte a v).cpuctrl = s.cpuctrl := rfl
@[simp] theorem State.storeByte_mcycle (s : State) (a : Word) (v : Byte) : (s.storeByte a v).mcycle = s.mcycle := rfl
@[simp] theorem State.storeByte_minstret (s : State) (a : Word) (v : Byte) : (s.storeByte a v).minstret = s.minstret := rfl
@[simp] theorem State.storeByte_hpmcounters (s : State) (a : Word) (v : Byte) : (s.storeByte a v).hpmcounters = s.hpmcounters := rfl
@[simp] theorem State.storeByte_msip (s : State) (a : Word) (v : Byte) : (s.storeByte a v).msip = s.msip := rfl
@[simp] theorem State.storeByte_mtimecmp (s : State) (a : Word) (v : Byte) : (s.storeByte a v).mtimecmp = s.mtimecmp := rfl
@[simp] theorem State.storeByte_mtime (s : State) (a : Word) (v : Byte) : (s.storeByte a v).mtime = s.mtime := rfl
@[simp] theorem State.storeByte_lines (s : State) (a : Word) (v : Byte) : (s.storeByte a v).lines = s.lines := rfl
@[simp] theorem State.storeByte_inputs (s : State) (a : Word) (v : Byte) : (s.storeByte a v).inputs = s.inputs := rfl
@[simp] theorem State.storeByte_mem (s : State) (a : Word) (v : Byte) : (s.storeByte a v).mem = Memory.writeByte s.mem a.toNat v := rfl
@[simp] theorem State.storeByte_imem (s : State) (a : Word) (v : Byte) : (s.storeByte a v).imem = s.imem := rfl
@[simp] theorem State.storeByte_stale (s : State) (a : Word) (v : Byte) : (s.storeByte a v).stale = (if s.cfg.sharedImemDmem then noteStale s.stale a.toNat (s.byteAt a) else s.stale) := rfl
@[simp] theorem State.storeByte_device (s : State) (a : Word) (v : Byte) : (s.storeByte a v).device = s.device := rfl
@[simp] theorem State.storeByte_draws (s : State) (a : Word) (v : Byte) : (s.storeByte a v).draws = s.draws := rfl
@[simp] theorem State.storeByte_log (s : State) (a : Word) (v : Byte) : (s.storeByte a v).log = s.log := rfl

/-! ### trap -/

@[simp] theorem State.trap_cfg (s : State) (i : Bool) (c : Nat) (v e : Word) : (s.trap i c v e).cfg = s.cfg := rfl
@[simp] theorem State.trap_regs (s : State) (i : Bool) (c : Nat) (v e : Word) : (s.trap i c v e).regs = s.regs := rfl
@[simp] theorem State.trap_pc (s : State) (i : Bool) (c : Nat) (v e : Word) : (s.trap i c v e).pc = trapVector s.mtvec i c := rfl
@[simp] theorem State.trap_priv (s : State) (i : Bool) (c : Nat) (v e : Word) : (s.trap i c v e).priv = .M := rfl
@[simp] theorem State.trap_debugMode (s : State) (i : Bool) (c : Nat) (v e : Word) : (s.trap i c v e).debugMode = s.debugMode := rfl
@[simp] theorem State.trap_wfiSleep (s : State) (i : Bool) (c : Nat) (v e : Word) : (s.trap i c v e).wfiSleep = false := rfl
@[simp] theorem State.trap_inNmi (s : State) (i : Bool) (c : Nat) (v e : Word) : (s.trap i c v e).inNmi = s.inNmi := rfl
@[simp] theorem State.trap_nmiSaved (s : State) (i : Bool) (c : Nat) (v e : Word) : (s.trap i c v e).nmiSaved = s.nmiSaved := rfl
@[simp] theorem State.trap_mstatus (s : State) (i : Bool) (c : Nat) (v e : Word) : (s.trap i c v e).mstatus = { s.mstatus with mpie := s.mstatus.mie, mie := false, mpp := s.priv } := rfl
@[simp] theorem State.trap_mie (s : State) (i : Bool) (c : Nat) (v e : Word) : (s.trap i c v e).mie = s.mie := rfl
@[simp] theorem State.trap_mtvec (s : State) (i : Bool) (c : Nat) (v e : Word) : (s.trap i c v e).mtvec = s.mtvec := rfl
@[simp] theorem State.trap_mcountinhibit (s : State) (i : Bool) (c : Nat) (v e : Word) : (s.trap i c v e).mcountinhibit = s.mcountinhibit := rfl
@[simp] theorem State.trap_mscratch (s : State) (i : Bool) (c : Nat) (v e : Word) : (s.trap i c v e).mscratch = s.mscratch := rfl
@[simp] theorem State.trap_mepc (s : State) (i : Bool) (c : Nat) (v e : Word) : (s.trap i c v e).mepc = evenAddr e := rfl
@[simp] theorem State.trap_mcause (s : State) (i : Bool) (c : Nat) (v e : Word) : (s.trap i c v e).mcause = ⟨causeWord i c, false⟩ := rfl
@[simp] theorem State.trap_mtval (s : State) (i : Bool) (c : Nat) (v e : Word) : (s.trap i c v e).mtval = v := rfl
@[simp] theorem State.trap_tselect (s : State) (i : Bool) (c : Nat) (v e : Word) : (s.trap i c v e).tselect = s.tselect := rfl
@[simp] theorem State.trap_triggers (s : State) (i : Bool) (c : Nat) (v e : Word) : (s.trap i c v e).triggers = s.triggers := rfl
@[simp] theorem State.trap_dcsr (s : State) (i : Bool) (c : Nat) (v e : Word) : (s.trap i c v e).dcsr = s.dcsr := rfl
@[simp] theorem State.trap_dpc (s : State) (i : Bool) (c : Nat) (v e : Word) : (s.trap i c v e).dpc = s.dpc := rfl
@[simp] theorem State.trap_dscratch0 (s : State) (i : Bool) (c : Nat) (v e : Word) : (s.trap i c v e).dscratch0 = s.dscratch0 := rfl
@[simp] theorem State.trap_dscratch1 (s : State) (i : Bool) (c : Nat) (v e : Word) : (s.trap i c v e).dscratch1 = s.dscratch1 := rfl
@[simp] theorem State.trap_cpuctrl (s : State) (i : Bool) (c : Nat) (v e : Word) : (s.trap i c v e).cpuctrl = s.cpuctrl := rfl
@[simp] theorem State.trap_mcycle (s : State) (i : Bool) (c : Nat) (v e : Word) : (s.trap i c v e).mcycle = s.mcycle := rfl
@[simp] theorem State.trap_minstret (s : State) (i : Bool) (c : Nat) (v e : Word) : (s.trap i c v e).minstret = s.minstret := rfl
@[simp] theorem State.trap_hpmcounters (s : State) (i : Bool) (c : Nat) (v e : Word) : (s.trap i c v e).hpmcounters = s.hpmcounters := rfl
@[simp] theorem State.trap_msip (s : State) (i : Bool) (c : Nat) (v e : Word) : (s.trap i c v e).msip = s.msip := rfl
@[simp] theorem State.trap_mtimecmp (s : State) (i : Bool) (c : Nat) (v e : Word) : (s.trap i c v e).mtimecmp = s.mtimecmp := rfl
@[simp] theorem State.trap_mtime (s : State) (i : Bool) (c : Nat) (v e : Word) : (s.trap i c v e).mtime = s.mtime := rfl
@[simp] theorem State.trap_lines (s : State) (i : Bool) (c : Nat) (v e : Word) : (s.trap i c v e).lines = s.lines := rfl
@[simp] theorem State.trap_inputs (s : State) (i : Bool) (c : Nat) (v e : Word) : (s.trap i c v e).inputs = s.inputs := rfl
@[simp] theorem State.trap_mem (s : State) (i : Bool) (c : Nat) (v e : Word) : (s.trap i c v e).mem = s.mem := rfl
@[simp] theorem State.trap_imem (s : State) (i : Bool) (c : Nat) (v e : Word) : (s.trap i c v e).imem = s.imem := rfl
@[simp] theorem State.trap_stale (s : State) (i : Bool) (c : Nat) (v e : Word) : (s.trap i c v e).stale = s.stale := rfl
@[simp] theorem State.trap_device (s : State) (i : Bool) (c : Nat) (v e : Word) : (s.trap i c v e).device = s.device := rfl
@[simp] theorem State.trap_draws (s : State) (i : Bool) (c : Nat) (v e : Word) : (s.trap i c v e).draws = s.draws := rfl
@[simp] theorem State.trap_log (s : State) (i : Bool) (c : Nat) (v e : Word) : (s.trap i c v e).log = StepLog.empty := rfl

/-! ### trapReturn -/

@[simp] theorem State.trapReturn_cfg (s : State) : (s.trapReturn).cfg = s.cfg := rfl
@[simp] theorem State.trapReturn_regs (s : State) : (s.trapReturn).regs = s.regs := rfl
@[simp] theorem State.trapReturn_pc (s : State) : (s.trapReturn).pc = s.mepc := rfl
@[simp] theorem State.trapReturn_priv (s : State) : (s.trapReturn).priv = s.mstatus.mpp := rfl
@[simp] theorem State.trapReturn_debugMode (s : State) : (s.trapReturn).debugMode = s.debugMode := rfl
@[simp] theorem State.trapReturn_wfiSleep (s : State) : (s.trapReturn).wfiSleep = s.wfiSleep := rfl
@[simp] theorem State.trapReturn_inNmi (s : State) : (s.trapReturn).inNmi = false := rfl
@[simp] theorem State.trapReturn_nmiSaved (s : State) : (s.trapReturn).nmiSaved = s.nmiSaved := rfl
@[simp] theorem State.trapReturn_mstatus (s : State) : (s.trapReturn).mstatus = s.mstatusAfterMret := rfl
@[simp] theorem State.trapReturn_mie (s : State) : (s.trapReturn).mie = s.mie := rfl
@[simp] theorem State.trapReturn_mtvec (s : State) : (s.trapReturn).mtvec = s.mtvec := rfl
@[simp] theorem State.trapReturn_mcountinhibit (s : State) : (s.trapReturn).mcountinhibit = s.mcountinhibit := rfl
@[simp] theorem State.trapReturn_mscratch (s : State) : (s.trapReturn).mscratch = s.mscratch := rfl
@[simp] theorem State.trapReturn_mepc (s : State) : (s.trapReturn).mepc = (if s.inNmi then s.nmiSaved.mepc else s.mepc) := rfl
@[simp] theorem State.trapReturn_mcause (s : State) : (s.trapReturn).mcause = (if s.inNmi then s.nmiSaved.mcause else s.mcause) := rfl
@[simp] theorem State.trapReturn_mtval (s : State) : (s.trapReturn).mtval = s.mtval := rfl
@[simp] theorem State.trapReturn_tselect (s : State) : (s.trapReturn).tselect = s.tselect := rfl
@[simp] theorem State.trapReturn_triggers (s : State) : (s.trapReturn).triggers = s.triggers := rfl
@[simp] theorem State.trapReturn_dcsr (s : State) : (s.trapReturn).dcsr = s.dcsr := rfl
@[simp] theorem State.trapReturn_dpc (s : State) : (s.trapReturn).dpc = s.dpc := rfl
@[simp] theorem State.trapReturn_dscratch0 (s : State) : (s.trapReturn).dscratch0 = s.dscratch0 := rfl
@[simp] theorem State.trapReturn_dscratch1 (s : State) : (s.trapReturn).dscratch1 = s.dscratch1 := rfl
@[simp] theorem State.trapReturn_cpuctrl (s : State) : (s.trapReturn).cpuctrl = s.cpuctrl := rfl
@[simp] theorem State.trapReturn_mcycle (s : State) : (s.trapReturn).mcycle = s.mcycle := rfl
@[simp] theorem State.trapReturn_minstret (s : State) : (s.trapReturn).minstret = s.minstret := rfl
@[simp] theorem State.trapReturn_hpmcounters (s : State) : (s.trapReturn).hpmcounters = s.hpmcounters := rfl
@[simp] theorem State.trapReturn_msip (s : State) : (s.trapReturn).msip = s.msip := rfl
@[simp] theorem State.trapReturn_mtimecmp (s : State) : (s.trapReturn).mtimecmp = s.mtimecmp := rfl
@[simp] theorem State.trapReturn_mtime (s : State) : (s.trapReturn).mtime = s.mtime := rfl
@[simp] theorem State.trapReturn_lines (s : State) : (s.trapReturn).lines = s.lines := rfl
@[simp] theorem State.trapReturn_inputs (s : State) : (s.trapReturn).inputs = s.inputs := rfl
@[simp] theorem State.trapReturn_mem (s : State) : (s.trapReturn).mem = s.mem := rfl
@[simp] theorem State.trapReturn_imem (s : State) : (s.trapReturn).imem = s.imem := rfl
@[simp] theorem State.trapReturn_stale (s : State) : (s.trapReturn).stale = s.stale := rfl
@[simp] theorem State.trapReturn_device (s : State) : (s.trapReturn).device = s.device := rfl
@[simp] theorem State.trapReturn_draws (s : State) : (s.trapReturn).draws = s.draws := rfl
@[simp] theorem State.trapReturn_log (s : State) : (s.trapReturn).log = ⟨true, none⟩ := rfl

/-! ### enterDebug -/

@[simp] theorem State.enterDebug_cfg (s : State) (c : DebugCause) (r : Word) : (s.enterDebug c r).cfg = s.cfg := rfl
@[simp] theorem State.enterDebug_regs (s : State) (c : DebugCause) (r : Word) : (s.enterDebug c r).regs = s.regs := rfl
@[simp] theorem State.enterDebug_pc (s : State) (c : DebugCause) (r : Word) : (s.enterDebug c r).pc = s.cfg.debugHaltAddr := rfl
@[simp] theorem State.enterDebug_priv (s : State) (c : DebugCause) (r : Word) : (s.enterDebug c r).priv = .M := rfl
@[simp] theorem State.enterDebug_debugMode (s : State) (c : DebugCause) (r : Word) : (s.enterDebug c r).debugMode = true := rfl
@[simp] theorem State.enterDebug_wfiSleep (s : State) (c : DebugCause) (r : Word) : (s.enterDebug c r).wfiSleep = false := rfl
@[simp] theorem State.enterDebug_inNmi (s : State) (c : DebugCause) (r : Word) : (s.enterDebug c r).inNmi = s.inNmi := rfl
@[simp] theorem State.enterDebug_nmiSaved (s : State) (c : DebugCause) (r : Word) : (s.enterDebug c r).nmiSaved = s.nmiSaved := rfl
@[simp] theorem State.enterDebug_mstatus (s : State) (c : DebugCause) (r : Word) : (s.enterDebug c r).mstatus = s.mstatus := rfl
@[simp] theorem State.enterDebug_mie (s : State) (c : DebugCause) (r : Word) : (s.enterDebug c r).mie = s.mie := rfl
@[simp] theorem State.enterDebug_mtvec (s : State) (c : DebugCause) (r : Word) : (s.enterDebug c r).mtvec = s.mtvec := rfl
@[simp] theorem State.enterDebug_mcountinhibit (s : State) (c : DebugCause) (r : Word) : (s.enterDebug c r).mcountinhibit = s.mcountinhibit := rfl
@[simp] theorem State.enterDebug_mscratch (s : State) (c : DebugCause) (r : Word) : (s.enterDebug c r).mscratch = s.mscratch := rfl
@[simp] theorem State.enterDebug_mepc (s : State) (c : DebugCause) (r : Word) : (s.enterDebug c r).mepc = s.mepc := rfl
@[simp] theorem State.enterDebug_mcause (s : State) (c : DebugCause) (r : Word) : (s.enterDebug c r).mcause = s.mcause := rfl
@[simp] theorem State.enterDebug_mtval (s : State) (c : DebugCause) (r : Word) : (s.enterDebug c r).mtval = s.mtval := rfl
@[simp] theorem State.enterDebug_tselect (s : State) (c : DebugCause) (r : Word) : (s.enterDebug c r).tselect = s.tselect := rfl
@[simp] theorem State.enterDebug_triggers (s : State) (c : DebugCause) (r : Word) : (s.enterDebug c r).triggers = s.triggers := rfl
@[simp] theorem State.enterDebug_dcsr (s : State) (c : DebugCause) (r : Word) : (s.enterDebug c r).dcsr = { s.dcsr with cause := c.code, prv := s.priv } := rfl
@[simp] theorem State.enterDebug_dpc (s : State) (c : DebugCause) (r : Word) : (s.enterDebug c r).dpc = evenAddr r := rfl
@[simp] theorem State.enterDebug_dscratch0 (s : State) (c : DebugCause) (r : Word) : (s.enterDebug c r).dscratch0 = s.dscratch0 := rfl
@[simp] theorem State.enterDebug_dscratch1 (s : State) (c : DebugCause) (r : Word) : (s.enterDebug c r).dscratch1 = s.dscratch1 := rfl
@[simp] theorem State.enterDebug_cpuctrl (s : State) (c : DebugCause) (r : Word) : (s.enterDebug c r).cpuctrl = s.cpuctrl := rfl
@[simp] theorem State.enterDebug_mcycle (s : State) (c : DebugCause) (r : Word) : (s.enterDebug c r).mcycle = s.mcycle := rfl
@[simp] theorem State.enterDebug_minstret (s : State) (c : DebugCause) (r : Word) : (s.enterDebug c r).minstret = s.minstret := rfl
@[simp] theorem State.enterDebug_hpmcounters (s : State) (c : DebugCause) (r : Word) : (s.enterDebug c r).hpmcounters = s.hpmcounters := rfl
@[simp] theorem State.enterDebug_msip (s : State) (c : DebugCause) (r : Word) : (s.enterDebug c r).msip = s.msip := rfl
@[simp] theorem State.enterDebug_mtimecmp (s : State) (c : DebugCause) (r : Word) : (s.enterDebug c r).mtimecmp = s.mtimecmp := rfl
@[simp] theorem State.enterDebug_mtime (s : State) (c : DebugCause) (r : Word) : (s.enterDebug c r).mtime = s.mtime := rfl
@[simp] theorem State.enterDebug_lines (s : State) (c : DebugCause) (r : Word) : (s.enterDebug c r).lines = s.lines := rfl
@[simp] theorem State.enterDebug_inputs (s : State) (c : DebugCause) (r : Word) : (s.enterDebug c r).inputs = s.inputs := rfl
@[simp] theorem State.enterDebug_mem (s : State) (c : DebugCause) (r : Word) : (s.enterDebug c r).mem = s.mem := rfl
@[simp] theorem State.enterDebug_imem (s : State) (c : DebugCause) (r : Word) : (s.enterDebug c r).imem = s.imem := rfl
@[simp] theorem State.enterDebug_stale (s : State) (c : DebugCause) (r : Word) : (s.enterDebug c r).stale = s.stale := rfl
@[simp] theorem State.enterDebug_device (s : State) (c : DebugCause) (r : Word) : (s.enterDebug c r).device = s.device := rfl
@[simp] theorem State.enterDebug_draws (s : State) (c : DebugCause) (r : Word) : (s.enterDebug c r).draws = s.draws := rfl
@[simp] theorem State.enterDebug_log (s : State) (c : DebugCause) (r : Word) : (s.enterDebug c r).log = s.log := rfl

/-! ### debugReturn -/

@[simp] theorem State.debugReturn_cfg (s : State) : (s.debugReturn).cfg = s.cfg := rfl
@[simp] theorem State.debugReturn_regs (s : State) : (s.debugReturn).regs = s.regs := rfl
@[simp] theorem State.debugReturn_pc (s : State) : (s.debugReturn).pc = s.dpc := rfl
@[simp] theorem State.debugReturn_priv (s : State) : (s.debugReturn).priv = s.dcsr.prv := rfl
@[simp] theorem State.debugReturn_debugMode (s : State) : (s.debugReturn).debugMode = false := rfl
@[simp] theorem State.debugReturn_wfiSleep (s : State) : (s.debugReturn).wfiSleep = s.wfiSleep := rfl
@[simp] theorem State.debugReturn_inNmi (s : State) : (s.debugReturn).inNmi = s.inNmi := rfl
@[simp] theorem State.debugReturn_nmiSaved (s : State) : (s.debugReturn).nmiSaved = s.nmiSaved := rfl
@[simp] theorem State.debugReturn_mstatus (s : State) : (s.debugReturn).mstatus = { s.mstatus with mprv := if s.dcsr.prv = .M then s.mstatus.mprv else false } := rfl
@[simp] theorem State.debugReturn_mie (s : State) : (s.debugReturn).mie = s.mie := rfl
@[simp] theorem State.debugReturn_mtvec (s : State) : (s.debugReturn).mtvec = s.mtvec := rfl
@[simp] theorem State.debugReturn_mcountinhibit (s : State) : (s.debugReturn).mcountinhibit = s.mcountinhibit := rfl
@[simp] theorem State.debugReturn_mscratch (s : State) : (s.debugReturn).mscratch = s.mscratch := rfl
@[simp] theorem State.debugReturn_mepc (s : State) : (s.debugReturn).mepc = s.mepc := rfl
@[simp] theorem State.debugReturn_mcause (s : State) : (s.debugReturn).mcause = s.mcause := rfl
@[simp] theorem State.debugReturn_mtval (s : State) : (s.debugReturn).mtval = s.mtval := rfl
@[simp] theorem State.debugReturn_tselect (s : State) : (s.debugReturn).tselect = s.tselect := rfl
@[simp] theorem State.debugReturn_triggers (s : State) : (s.debugReturn).triggers = s.triggers := rfl
@[simp] theorem State.debugReturn_dcsr (s : State) : (s.debugReturn).dcsr = s.dcsr := rfl
@[simp] theorem State.debugReturn_dpc (s : State) : (s.debugReturn).dpc = s.dpc := rfl
@[simp] theorem State.debugReturn_dscratch0 (s : State) : (s.debugReturn).dscratch0 = s.dscratch0 := rfl
@[simp] theorem State.debugReturn_dscratch1 (s : State) : (s.debugReturn).dscratch1 = s.dscratch1 := rfl
@[simp] theorem State.debugReturn_cpuctrl (s : State) : (s.debugReturn).cpuctrl = s.cpuctrl := rfl
@[simp] theorem State.debugReturn_mcycle (s : State) : (s.debugReturn).mcycle = s.mcycle := rfl
@[simp] theorem State.debugReturn_minstret (s : State) : (s.debugReturn).minstret = s.minstret := rfl
@[simp] theorem State.debugReturn_hpmcounters (s : State) : (s.debugReturn).hpmcounters = s.hpmcounters := rfl
@[simp] theorem State.debugReturn_msip (s : State) : (s.debugReturn).msip = s.msip := rfl
@[simp] theorem State.debugReturn_mtimecmp (s : State) : (s.debugReturn).mtimecmp = s.mtimecmp := rfl
@[simp] theorem State.debugReturn_mtime (s : State) : (s.debugReturn).mtime = s.mtime := rfl
@[simp] theorem State.debugReturn_lines (s : State) : (s.debugReturn).lines = s.lines := rfl
@[simp] theorem State.debugReturn_inputs (s : State) : (s.debugReturn).inputs = s.inputs := rfl
@[simp] theorem State.debugReturn_mem (s : State) : (s.debugReturn).mem = s.mem := rfl
@[simp] theorem State.debugReturn_imem (s : State) : (s.debugReturn).imem = s.imem := rfl
@[simp] theorem State.debugReturn_stale (s : State) : (s.debugReturn).stale = s.stale := rfl
@[simp] theorem State.debugReturn_device (s : State) : (s.debugReturn).device = s.device := rfl
@[simp] theorem State.debugReturn_draws (s : State) : (s.debugReturn).draws = s.draws := rfl
@[simp] theorem State.debugReturn_log (s : State) : (s.debugReturn).log = ⟨true, none⟩ := rfl

/-! ### Byte writes and other agents -/

/-- What byte writes and transfers to devices change: memory, what is stale, the CLINT, what devices have seen. -/
def OnlyBus (s t : State) : Prop :=
  t = { s with mem := t.mem, stale := t.stale, msip := t.msip, mtimecmp := t.mtimecmp, mtime := t.mtime,
               device := t.device }

theorem OnlyBus.refl (s : State) : OnlyBus s s := rfl

theorem OnlyBus.trans {s t u : State} (h1 : OnlyBus s t) (h2 : OnlyBus t u) : OnlyBus s u := by
  unfold OnlyBus at *
  rw [h2, h1]

/-- What a write to the CLINT can change: its three registers. -/
theorem State.setClintByte_eq (s : State) (a : Word) (v : Byte) :
    s.setClintByte a v =
      { s with
        msip := (s.setClintByte a v).msip
        mtimecmp := (s.setClintByte a v).mtimecmp
        mtime := (s.setClintByte a v).mtime } := by
  unfold State.setClintByte
  repeat' split
  all_goals rfl

theorem State.storeClintByte_bus (s : State) (a : Word) (v : Byte) :
    OnlyBus s (s.storeClintByte a v) ∧ (s.storeClintByte a v).mem = s.mem
      ∧ (s.storeClintByte a v).device = s.device := by
  unfold State.storeClintByte
  split
  · exact ⟨rfl, rfl, rfl⟩
  · refine ⟨?_, ?_, ?_⟩
    · unfold OnlyBus
      rw [State.setClintByte_eq]
    · show (s.setClintByte a v).mem = s.mem
      rw [State.setClintByte_eq]
    · show (s.setClintByte a v).device = s.device
      rw [State.setClintByte_eq]

/-- One byte of a write, whoever answers it, is no transfer to a device. -/
theorem State.writeBusByte_bus (s : State) (ans : Answer) (a : Word) (v : Byte) :
    OnlyBus s (s.writeBusByte ans a v) ∧ (s.writeBusByte ans a v).device = s.device := by
  unfold State.writeBusByte
  split
  · exact ⟨rfl, rfl⟩
  · exact ⟨(s.storeClintByte_bus a v).1, (s.storeClintByte_bus a v).2.2⟩
  · exact ⟨rfl, rfl⟩
  · exact ⟨rfl, rfl⟩

/-- Everything other agents' writes can change. -/
theorem State.agentWrites_bus (s : State) : OnlyBus s s.agentWrites ∧ s.agentWrites.device = s.device := by
  unfold State.agentWrites
  generalize s.input.writes = l
  induction l generalizing s with
  | nil => exact ⟨rfl, rfl⟩
  | cons w rest ih =>
    have h1 := s.writeBusByte_bus (s.agentAnswer w.1) w.1 w.2
    have h2 := ih (s.writeBusByte (s.agentAnswer w.1) w.1 w.2)
    exact ⟨OnlyBus.trans h1.1 h2.1, h2.2.trans h1.2⟩

@[simp] theorem State.agentWrites_cfg (s : State) : s.agentWrites.cfg = s.cfg := by rw [s.agentWrites_bus.1]
@[simp] theorem State.agentWrites_regs (s : State) : s.agentWrites.regs = s.regs := by rw [s.agentWrites_bus.1]
@[simp] theorem State.agentWrites_pc (s : State) : s.agentWrites.pc = s.pc := by rw [s.agentWrites_bus.1]
@[simp] theorem State.agentWrites_priv (s : State) : s.agentWrites.priv = s.priv := by rw [s.agentWrites_bus.1]
@[simp] theorem State.agentWrites_debugMode (s : State) : s.agentWrites.debugMode = s.debugMode := by rw [s.agentWrites_bus.1]
@[simp] theorem State.agentWrites_wfiSleep (s : State) : s.agentWrites.wfiSleep = s.wfiSleep := by rw [s.agentWrites_bus.1]
@[simp] theorem State.agentWrites_inNmi (s : State) : s.agentWrites.inNmi = s.inNmi := by rw [s.agentWrites_bus.1]
@[simp] theorem State.agentWrites_nmiSaved (s : State) : s.agentWrites.nmiSaved = s.nmiSaved := by rw [s.agentWrites_bus.1]
@[simp] theorem State.agentWrites_mstatus (s : State) : s.agentWrites.mstatus = s.mstatus := by rw [s.agentWrites_bus.1]
@[simp] theorem State.agentWrites_mie (s : State) : s.agentWrites.mie = s.mie := by rw [s.agentWrites_bus.1]
@[simp] theorem State.agentWrites_mtvec (s : State) : s.agentWrites.mtvec = s.mtvec := by rw [s.agentWrites_bus.1]
@[simp] theorem State.agentWrites_mcountinhibit (s : State) : s.agentWrites.mcountinhibit = s.mcountinhibit := by rw [s.agentWrites_bus.1]
@[simp] theorem State.agentWrites_mscratch (s : State) : s.agentWrites.mscratch = s.mscratch := by rw [s.agentWrites_bus.1]
@[simp] theorem State.agentWrites_mepc (s : State) : s.agentWrites.mepc = s.mepc := by rw [s.agentWrites_bus.1]
@[simp] theorem State.agentWrites_mcause (s : State) : s.agentWrites.mcause = s.mcause := by rw [s.agentWrites_bus.1]
@[simp] theorem State.agentWrites_mtval (s : State) : s.agentWrites.mtval = s.mtval := by rw [s.agentWrites_bus.1]
@[simp] theorem State.agentWrites_tselect (s : State) : s.agentWrites.tselect = s.tselect := by rw [s.agentWrites_bus.1]
@[simp] theorem State.agentWrites_triggers (s : State) : s.agentWrites.triggers = s.triggers := by rw [s.agentWrites_bus.1]
@[simp] theorem State.agentWrites_dcsr (s : State) : s.agentWrites.dcsr = s.dcsr := by rw [s.agentWrites_bus.1]
@[simp] theorem State.agentWrites_dpc (s : State) : s.agentWrites.dpc = s.dpc := by rw [s.agentWrites_bus.1]
@[simp] theorem State.agentWrites_dscratch0 (s : State) : s.agentWrites.dscratch0 = s.dscratch0 := by rw [s.agentWrites_bus.1]
@[simp] theorem State.agentWrites_dscratch1 (s : State) : s.agentWrites.dscratch1 = s.dscratch1 := by rw [s.agentWrites_bus.1]
@[simp] theorem State.agentWrites_cpuctrl (s : State) : s.agentWrites.cpuctrl = s.cpuctrl := by rw [s.agentWrites_bus.1]
@[simp] theorem State.agentWrites_mcycle (s : State) : s.agentWrites.mcycle = s.mcycle := by rw [s.agentWrites_bus.1]
@[simp] theorem State.agentWrites_minstret (s : State) : s.agentWrites.minstret = s.minstret := by rw [s.agentWrites_bus.1]
@[simp] theorem State.agentWrites_hpmcounters (s : State) : s.agentWrites.hpmcounters = s.hpmcounters := by rw [s.agentWrites_bus.1]
@[simp] theorem State.agentWrites_imem (s : State) : s.agentWrites.imem = s.imem := by rw [s.agentWrites_bus.1]
@[simp] theorem State.agentWrites_device (s : State) : s.agentWrites.device = s.device := s.agentWrites_bus.2
@[simp] theorem State.agentWrites_draws (s : State) : s.agentWrites.draws = s.draws := by rw [s.agentWrites_bus.1]

/-! ### beginStep -/

@[simp] theorem State.beginStep_cfg (s : State) : (s.beginStep).cfg = s.cfg := s.agentWrites_cfg
@[simp] theorem State.beginStep_regs (s : State) : (s.beginStep).regs = s.regs := s.agentWrites_regs
@[simp] theorem State.beginStep_pc (s : State) : (s.beginStep).pc = s.pc := s.agentWrites_pc
@[simp] theorem State.beginStep_priv (s : State) : (s.beginStep).priv = s.priv := s.agentWrites_priv
@[simp] theorem State.beginStep_debugMode (s : State) : (s.beginStep).debugMode = s.debugMode := s.agentWrites_debugMode
@[simp] theorem State.beginStep_wfiSleep (s : State) : (s.beginStep).wfiSleep = s.wfiSleep := s.agentWrites_wfiSleep
@[simp] theorem State.beginStep_inNmi (s : State) : (s.beginStep).inNmi = s.inNmi := s.agentWrites_inNmi
@[simp] theorem State.beginStep_nmiSaved (s : State) : (s.beginStep).nmiSaved = s.nmiSaved := s.agentWrites_nmiSaved
@[simp] theorem State.beginStep_mstatus (s : State) : (s.beginStep).mstatus = s.mstatus := s.agentWrites_mstatus
@[simp] theorem State.beginStep_mie (s : State) : (s.beginStep).mie = s.mie := s.agentWrites_mie
@[simp] theorem State.beginStep_mtvec (s : State) : (s.beginStep).mtvec = s.mtvec := s.agentWrites_mtvec
@[simp] theorem State.beginStep_mcountinhibit (s : State) : (s.beginStep).mcountinhibit = s.mcountinhibit := s.agentWrites_mcountinhibit
@[simp] theorem State.beginStep_mscratch (s : State) : (s.beginStep).mscratch = s.mscratch := s.agentWrites_mscratch
@[simp] theorem State.beginStep_mepc (s : State) : (s.beginStep).mepc = s.mepc := s.agentWrites_mepc
@[simp] theorem State.beginStep_mcause (s : State) : (s.beginStep).mcause = s.mcause := s.agentWrites_mcause
@[simp] theorem State.beginStep_mtval (s : State) : (s.beginStep).mtval = s.mtval := s.agentWrites_mtval
@[simp] theorem State.beginStep_tselect (s : State) : (s.beginStep).tselect = s.tselect := s.agentWrites_tselect
@[simp] theorem State.beginStep_triggers (s : State) : (s.beginStep).triggers = s.triggers := s.agentWrites_triggers
@[simp] theorem State.beginStep_dcsr (s : State) : (s.beginStep).dcsr = s.dcsr := s.agentWrites_dcsr
@[simp] theorem State.beginStep_dpc (s : State) : (s.beginStep).dpc = s.dpc := s.agentWrites_dpc
@[simp] theorem State.beginStep_dscratch0 (s : State) : (s.beginStep).dscratch0 = s.dscratch0 := s.agentWrites_dscratch0
@[simp] theorem State.beginStep_dscratch1 (s : State) : (s.beginStep).dscratch1 = s.dscratch1 := s.agentWrites_dscratch1
@[simp] theorem State.beginStep_cpuctrl (s : State) : (s.beginStep).cpuctrl = s.cpuctrl := s.agentWrites_cpuctrl
@[simp] theorem State.beginStep_mcycle (s : State) : (s.beginStep).mcycle = s.mcycle := s.agentWrites_mcycle
@[simp] theorem State.beginStep_minstret (s : State) : (s.beginStep).minstret = s.minstret := s.agentWrites_minstret
@[simp] theorem State.beginStep_hpmcounters (s : State) : (s.beginStep).hpmcounters = s.hpmcounters := s.agentWrites_hpmcounters
@[simp] theorem State.beginStep_msip (s : State) : (s.beginStep).msip = s.agentWrites.msip := rfl
@[simp] theorem State.beginStep_mtimecmp (s : State) : (s.beginStep).mtimecmp = s.agentWrites.mtimecmp := rfl
@[simp] theorem State.beginStep_mtime (s : State) : (s.beginStep).mtime = s.agentWrites.mtime := rfl
@[simp] theorem State.beginStep_lines (s : State) : (s.beginStep).lines = s.sampledLines := rfl
@[simp] theorem State.beginStep_inputs (s : State) : (s.beginStep).inputs = s.inputs.tail := rfl
@[simp] theorem State.beginStep_mem (s : State) : (s.beginStep).mem = s.agentWrites.mem := rfl
@[simp] theorem State.beginStep_imem (s : State) : (s.beginStep).imem = s.imem := s.agentWrites_imem
@[simp] theorem State.beginStep_stale (s : State) : (s.beginStep).stale = s.agentWrites.stale := rfl
@[simp] theorem State.beginStep_device (s : State) : (s.beginStep).device = s.device := s.agentWrites_device
@[simp] theorem State.beginStep_draws (s : State) : (s.beginStep).draws = s.draws := s.agentWrites_draws
@[simp] theorem State.beginStep_log (s : State) : (s.beginStep).log = StepLog.empty := rfl

/-! ### awake -/

@[simp] theorem State.awake_cfg (s : State) : (s.awake).cfg = s.cfg := rfl
@[simp] theorem State.awake_regs (s : State) : (s.awake).regs = s.regs := rfl
@[simp] theorem State.awake_pc (s : State) : (s.awake).pc = s.pc := rfl
@[simp] theorem State.awake_priv (s : State) : (s.awake).priv = s.priv := rfl
@[simp] theorem State.awake_debugMode (s : State) : (s.awake).debugMode = s.debugMode := rfl
@[simp] theorem State.awake_wfiSleep (s : State) : (s.awake).wfiSleep = false := rfl
@[simp] theorem State.awake_inNmi (s : State) : (s.awake).inNmi = s.inNmi := rfl
@[simp] theorem State.awake_nmiSaved (s : State) : (s.awake).nmiSaved = s.nmiSaved := rfl
@[simp] theorem State.awake_mstatus (s : State) : (s.awake).mstatus = s.mstatus := rfl
@[simp] theorem State.awake_mie (s : State) : (s.awake).mie = s.mie := rfl
@[simp] theorem State.awake_mtvec (s : State) : (s.awake).mtvec = s.mtvec := rfl
@[simp] theorem State.awake_mcountinhibit (s : State) : (s.awake).mcountinhibit = s.mcountinhibit := rfl
@[simp] theorem State.awake_mscratch (s : State) : (s.awake).mscratch = s.mscratch := rfl
@[simp] theorem State.awake_mepc (s : State) : (s.awake).mepc = s.mepc := rfl
@[simp] theorem State.awake_mcause (s : State) : (s.awake).mcause = s.mcause := rfl
@[simp] theorem State.awake_mtval (s : State) : (s.awake).mtval = s.mtval := rfl
@[simp] theorem State.awake_tselect (s : State) : (s.awake).tselect = s.tselect := rfl
@[simp] theorem State.awake_triggers (s : State) : (s.awake).triggers = s.triggers := rfl
@[simp] theorem State.awake_dcsr (s : State) : (s.awake).dcsr = s.dcsr := rfl
@[simp] theorem State.awake_dpc (s : State) : (s.awake).dpc = s.dpc := rfl
@[simp] theorem State.awake_dscratch0 (s : State) : (s.awake).dscratch0 = s.dscratch0 := rfl
@[simp] theorem State.awake_dscratch1 (s : State) : (s.awake).dscratch1 = s.dscratch1 := rfl
@[simp] theorem State.awake_cpuctrl (s : State) : (s.awake).cpuctrl = s.cpuctrl := rfl
@[simp] theorem State.awake_mcycle (s : State) : (s.awake).mcycle = s.mcycle := rfl
@[simp] theorem State.awake_minstret (s : State) : (s.awake).minstret = s.minstret := rfl
@[simp] theorem State.awake_hpmcounters (s : State) : (s.awake).hpmcounters = s.hpmcounters := rfl
@[simp] theorem State.awake_msip (s : State) : (s.awake).msip = s.msip := rfl
@[simp] theorem State.awake_mtimecmp (s : State) : (s.awake).mtimecmp = s.mtimecmp := rfl
@[simp] theorem State.awake_mtime (s : State) : (s.awake).mtime = s.mtime := rfl
@[simp] theorem State.awake_lines (s : State) : (s.awake).lines = s.lines := rfl
@[simp] theorem State.awake_inputs (s : State) : (s.awake).inputs = s.inputs := rfl
@[simp] theorem State.awake_mem (s : State) : (s.awake).mem = s.mem := rfl
@[simp] theorem State.awake_imem (s : State) : (s.awake).imem = s.imem := rfl
@[simp] theorem State.awake_stale (s : State) : (s.awake).stale = s.stale := rfl
@[simp] theorem State.awake_device (s : State) : (s.awake).device = s.device := rfl
@[simp] theorem State.awake_draws (s : State) : (s.awake).draws = s.draws := rfl
@[simp] theorem State.awake_log (s : State) : (s.awake).log = s.log := rfl

/-! ### raising -/

@[simp] theorem State.raising_cfg (s : State) : (s.raising).cfg = s.cfg := rfl
@[simp] theorem State.raising_regs (s : State) : (s.raising).regs = s.regs := rfl
@[simp] theorem State.raising_pc (s : State) : (s.raising).pc = s.pc := rfl
@[simp] theorem State.raising_priv (s : State) : (s.raising).priv = if s.debugMode then .M else s.priv := rfl
@[simp] theorem State.raising_debugMode (s : State) : (s.raising).debugMode = false := rfl
@[simp] theorem State.raising_wfiSleep (s : State) : (s.raising).wfiSleep = s.wfiSleep := rfl
@[simp] theorem State.raising_inNmi (s : State) : (s.raising).inNmi = false := rfl
@[simp] theorem State.raising_nmiSaved (s : State) : (s.raising).nmiSaved = s.nmiSaved := rfl
@[simp] theorem State.raising_mstatus (s : State) :
    (s.raising).mstatus = if s.debugMode then { s.mstatus with mprv := false } else s.mstatus := rfl
@[simp] theorem State.raising_mie (s : State) : (s.raising).mie = s.mie := rfl
@[simp] theorem State.raising_mtvec (s : State) : (s.raising).mtvec = s.mtvec := rfl
@[simp] theorem State.raising_mcountinhibit (s : State) : (s.raising).mcountinhibit = s.mcountinhibit := rfl
@[simp] theorem State.raising_mscratch (s : State) : (s.raising).mscratch = s.mscratch := rfl
@[simp] theorem State.raising_mepc (s : State) : (s.raising).mepc = s.mepc := rfl
@[simp] theorem State.raising_mcause (s : State) : (s.raising).mcause = s.mcause := rfl
@[simp] theorem State.raising_mtval (s : State) : (s.raising).mtval = s.mtval := rfl
@[simp] theorem State.raising_tselect (s : State) : (s.raising).tselect = s.tselect := rfl
@[simp] theorem State.raising_triggers (s : State) : (s.raising).triggers = s.triggers := rfl
@[simp] theorem State.raising_dcsr (s : State) : (s.raising).dcsr = s.dcsr := rfl
@[simp] theorem State.raising_dpc (s : State) : (s.raising).dpc = s.dpc := rfl
@[simp] theorem State.raising_dscratch0 (s : State) : (s.raising).dscratch0 = s.dscratch0 := rfl
@[simp] theorem State.raising_dscratch1 (s : State) : (s.raising).dscratch1 = s.dscratch1 := rfl
@[simp] theorem State.raising_cpuctrl (s : State) : (s.raising).cpuctrl = s.cpuctrl := rfl
@[simp] theorem State.raising_mcycle (s : State) : (s.raising).mcycle = s.mcycle := rfl
@[simp] theorem State.raising_minstret (s : State) : (s.raising).minstret = s.minstret := rfl
@[simp] theorem State.raising_hpmcounters (s : State) : (s.raising).hpmcounters = s.hpmcounters := rfl
@[simp] theorem State.raising_msip (s : State) : (s.raising).msip = s.msip := rfl
@[simp] theorem State.raising_mtimecmp (s : State) : (s.raising).mtimecmp = s.mtimecmp := rfl
@[simp] theorem State.raising_mtime (s : State) : (s.raising).mtime = s.mtime := rfl
@[simp] theorem State.raising_lines (s : State) : (s.raising).lines = s.lines := rfl
@[simp] theorem State.raising_inputs (s : State) : (s.raising).inputs = s.inputs := rfl
@[simp] theorem State.raising_mem (s : State) : (s.raising).mem = s.mem := rfl
@[simp] theorem State.raising_imem (s : State) : (s.raising).imem = s.imem := rfl
@[simp] theorem State.raising_stale (s : State) : (s.raising).stale = s.stale := rfl
@[simp] theorem State.raising_device (s : State) : (s.raising).device = s.device := rfl
@[simp] theorem State.raising_draws (s : State) : (s.raising).draws = s.draws := rfl
@[simp] theorem State.raising_log (s : State) : (s.raising).log = s.log := rfl

/-! ### tick: `s` the start of the step, `t` its end -/

@[simp] theorem State.tick_cfg (s t : State) : (s.tick t).cfg = t.cfg := rfl
@[simp] theorem State.tick_regs (s t : State) : (s.tick t).regs = t.regs := rfl
@[simp] theorem State.tick_pc (s t : State) : (s.tick t).pc = t.pc := rfl
@[simp] theorem State.tick_priv (s t : State) : (s.tick t).priv = t.priv := rfl
@[simp] theorem State.tick_debugMode (s t : State) : (s.tick t).debugMode = t.debugMode := rfl
@[simp] theorem State.tick_wfiSleep (s t : State) : (s.tick t).wfiSleep = t.wfiSleep := rfl
@[simp] theorem State.tick_inNmi (s t : State) : (s.tick t).inNmi = t.inNmi := rfl
@[simp] theorem State.tick_nmiSaved (s t : State) : (s.tick t).nmiSaved = t.nmiSaved := rfl
@[simp] theorem State.tick_mstatus (s t : State) : (s.tick t).mstatus = t.mstatus := rfl
@[simp] theorem State.tick_mie (s t : State) : (s.tick t).mie = t.mie := rfl
@[simp] theorem State.tick_mtvec (s t : State) : (s.tick t).mtvec = t.mtvec := rfl
@[simp] theorem State.tick_mcountinhibit (s t : State) : (s.tick t).mcountinhibit = t.mcountinhibit := rfl
@[simp] theorem State.tick_mscratch (s t : State) : (s.tick t).mscratch = t.mscratch := rfl
@[simp] theorem State.tick_mepc (s t : State) : (s.tick t).mepc = t.mepc := rfl
@[simp] theorem State.tick_mcause (s t : State) : (s.tick t).mcause = t.mcause := rfl
@[simp] theorem State.tick_mtval (s t : State) : (s.tick t).mtval = t.mtval := rfl
@[simp] theorem State.tick_tselect (s t : State) : (s.tick t).tselect = t.tselect := rfl
@[simp] theorem State.tick_triggers (s t : State) : (s.tick t).triggers = t.triggers := rfl
@[simp] theorem State.tick_dcsr (s t : State) : (s.tick t).dcsr = t.dcsr := rfl
@[simp] theorem State.tick_dpc (s t : State) : (s.tick t).dpc = t.dpc := rfl
@[simp] theorem State.tick_dscratch0 (s t : State) : (s.tick t).dscratch0 = t.dscratch0 := rfl
@[simp] theorem State.tick_dscratch1 (s t : State) : (s.tick t).dscratch1 = t.dscratch1 := rfl
@[simp] theorem State.tick_cpuctrl (s t : State) : (s.tick t).cpuctrl = t.cpuctrl := rfl
@[simp] theorem State.tick_mcycle (s t : State) : (s.tick t).mcycle = s.nextMcycle t := rfl
@[simp] theorem State.tick_minstret (s t : State) : (s.tick t).minstret = s.nextMinstret t := rfl
@[simp] theorem State.tick_hpmcounters (s t : State) : (s.tick t).hpmcounters = t.hpmcounters.mapIdx fun k v => s.nextHpm t k v := rfl
@[simp] theorem State.tick_msip (s t : State) : (s.tick t).msip = t.msip := rfl
@[simp] theorem State.tick_mtimecmp (s t : State) : (s.tick t).mtimecmp = t.mtimecmp := rfl
@[simp] theorem State.tick_mtime (s t : State) : (s.tick t).mtime = t.mtime + BitVec.ofNat 64 (Config.freeTicks t.draws) := rfl
@[simp] theorem State.tick_lines (s t : State) : (s.tick t).lines = t.lines := rfl
@[simp] theorem State.tick_inputs (s t : State) : (s.tick t).inputs = t.inputs := rfl
@[simp] theorem State.tick_mem (s t : State) : (s.tick t).mem = t.mem := rfl
@[simp] theorem State.tick_imem (s t : State) : (s.tick t).imem = t.imem := rfl
@[simp] theorem State.tick_stale (s t : State) : (s.tick t).stale = t.stale := rfl
@[simp] theorem State.tick_device (s t : State) : (s.tick t).device = t.device := rfl
@[simp] theorem State.tick_draws (s t : State) : (s.tick t).draws = t.draws + 1 := rfl
@[simp] theorem State.tick_log (s t : State) : (s.tick t).log = StepLog.empty := rfl

/-! ### Reads that look at registers and memory only -/

@[simp] theorem State.retire_reg (s : State) (n : Word) (r : Reg) : (s.retire n).reg r = s.reg r := rfl
@[simp] theorem State.retireCsr_reg (s : State) (n : Word) (c : Option CsrAddr) (r : Reg) :
    (s.retireCsr n c).reg r = s.reg r := rfl
@[simp] theorem State.trap_reg (s : State) (i : Bool) (c : Nat) (v e : Word) (r : Reg) :
    (s.trap i c v e).reg r = s.reg r := rfl
@[simp] theorem State.trapReturn_reg (s : State) (r : Reg) : s.trapReturn.reg r = s.reg r := rfl
@[simp] theorem State.enterDebug_reg (s : State) (c : DebugCause) (n : Word) (r : Reg) :
    (s.enterDebug c n).reg r = s.reg r := rfl
@[simp] theorem State.debugReturn_reg (s : State) (r : Reg) : s.debugReturn.reg r = s.reg r := rfl
@[simp] theorem State.storeByte_reg (s : State) (a : Word) (v : Byte) (r : Reg) :
    (s.storeByte a v).reg r = s.reg r := rfl
@[simp] theorem State.retire_byteAt (s : State) (n a : Word) : (s.retire n).byteAt a = s.byteAt a := rfl
@[simp] theorem State.retireCsr_byteAt (s : State) (n : Word) (c : Option CsrAddr) (a : Word) :
    (s.retireCsr n c).byteAt a = s.byteAt a := rfl
@[simp] theorem State.trap_byteAt (s : State) (i : Bool) (c : Nat) (v e a : Word) :
    (s.trap i c v e).byteAt a = s.byteAt a := rfl
@[simp] theorem State.trapReturn_byteAt (s : State) (a : Word) : s.trapReturn.byteAt a = s.byteAt a := rfl
@[simp] theorem State.enterDebug_byteAt (s : State) (c : DebugCause) (n a : Word) :
    (s.enterDebug c n).byteAt a = s.byteAt a := rfl
@[simp] theorem State.debugReturn_byteAt (s : State) (a : Word) : s.debugReturn.byteAt a = s.byteAt a := rfl
@[simp] theorem State.setReg_byteAt (s : State) (r : Reg) (v a : Word) : (s.setReg r v).byteAt a = s.byteAt a := by
  unfold State.byteAt; simp

/-- x0 reads 0 (10_state R21). -/
@[simp] theorem State.reg_zero (s : State) : s.reg 0#5 = 0#32 := rfl

/-- What every register reads after a write: the written one its new value, x0 still 0 (R21). -/
theorem State.reg_setReg (s : State) (rd : Reg) (v : Word) (r : Reg) :
    (s.setReg rd v).reg r = if r = rd ∧ r ≠ 0#5 then v else s.reg r := by
  unfold State.setReg State.reg
  by_cases h : rd = 0#5
  · subst h
    by_cases hr : r = 0#5 <;> simp [hr]
  · by_cases hr : r = 0#5
    · simp [hr]
    · by_cases he : r = rd
      · subst he; simp [hr]
      · have : rd.toNat ≠ r.toNat := fun hh => he (BitVec.eq_of_toNat_eq hh.symm)
        simp [h, hr, he, Vector.getElem_set_ne, this]

end Sys2Proof.Machine
end

