-- ==== Sys2Proof/Laws/Memory.lean ====
section
/-! SUPPORT. Memory: read after write, and the canonical form is kept by every operation that writes memory. -/

namespace Sys2Proof.Machine

open Sys2Proof

/-! ### One memory -/

theorem Memory.wfFrom_mono {lo lo' : Nat} {m : Memory} (h : Memory.wfFrom lo m = true) (hl : lo' ≤ lo) :
    Memory.wfFrom lo' m = true := by
  cases m with
  | nil => rfl
  | cons c rest =>
    obtain ⟨k, b⟩ := c
    simp only [Memory.wfFrom, Bool.and_eq_true, decide_eq_true_eq] at h ⊢
    obtain ⟨⟨⟨h1, h2⟩, h3⟩, h4⟩ := h
    exact ⟨⟨⟨Nat.le_trans hl h1, h2⟩, h3⟩, h4⟩

/-- An address below every listed one is unlisted. -/
theorem Memory.readByte_below {lo : Nat} {m : Memory} (h : Memory.wfFrom lo m = true) {a : Nat} (ha : a < lo) :
    Memory.readByte m a = Memory.unlisted := by
  induction m generalizing lo with
  | nil => rfl
  | cons c rest ih =>
    obtain ⟨k, b⟩ := c
    simp only [Memory.wfFrom, Bool.and_eq_true, decide_eq_true_eq] at h
    obtain ⟨⟨⟨h1, -⟩, -⟩, h4⟩ := h
    have hne : k ≠ a := by omega
    simpa [Memory.readByte, hne] using ih h4 (by omega)

theorem Memory.readByte_writeByte_same {lo : Nat} {m : Memory} (h : Memory.wfFrom lo m = true) (a : Nat) (v : Byte) :
    Memory.readByte (Memory.writeByte m a v) a = v := by
  induction m generalizing lo with
  | nil => by_cases hv : v = Memory.unlisted <;> simp [Memory.writeByte, Memory.readByte, hv]
  | cons c rest ih =>
    obtain ⟨k, b⟩ := c
    have hf := h
    simp only [Memory.wfFrom, Bool.and_eq_true, decide_eq_true_eq] at h
    obtain ⟨⟨⟨-, -⟩, -⟩, h4⟩ := h
    unfold Memory.writeByte
    split
    · rename_i hlt
      split
      · rename_i hv
        have hne : k ≠ a := by omega
        have := Memory.readByte_below h4 (a := a) (by omega)
        simp [Memory.readByte, hne, this, hv]
      · simp [Memory.readByte]
    · split
      · rename_i hlt hak
        subst hak
        split
        · rename_i hv
          have := Memory.readByte_below h4 (a := a) (by omega)
          simp [this, hv]
        · simp [Memory.readByte]
      · rename_i hlt hak
        have hne : k ≠ a := fun hh => hak hh.symm
        simpa [Memory.readByte, hne] using ih h4

theorem Memory.readByte_writeByte_other (m : Memory) {a a' : Nat} (hne : a' ≠ a) (v : Byte) :
    Memory.readByte (Memory.writeByte m a v) a' = Memory.readByte m a' := by
  induction m with
  | nil => by_cases hv : v = Memory.unlisted <;> simp [Memory.writeByte, Memory.readByte, hv, hne.symm]
  | cons c rest ih =>
    obtain ⟨k, b⟩ := c
    unfold Memory.writeByte
    split
    · split
      · rfl
      · simp [Memory.readByte, hne.symm]
    · split
      · rename_i hak
        subst hak
        split <;> simp [Memory.readByte, hne.symm]
      · by_cases hk : k = a' <;> simp [Memory.readByte, hk, ih]

theorem Memory.wfFrom_writeByte {lo : Nat} {m : Memory} (h : Memory.wfFrom lo m = true) {a : Nat} (hlo : lo ≤ a)
    (ha : a < 2 ^ 32) (v : Byte) : Memory.wfFrom lo (Memory.writeByte m a v) = true := by
  induction m generalizing lo with
  | nil =>
    by_cases hv : v = Memory.unlisted
    · simp [Memory.writeByte, hv, Memory.wfFrom]
    · simp [Memory.writeByte, hv, Memory.wfFrom, hlo]
      omega
  | cons c rest ih =>
    obtain ⟨k, b⟩ := c
    have hf := h
    simp only [Memory.wfFrom, Bool.and_eq_true, decide_eq_true_eq] at h
    obtain ⟨⟨⟨h1, h2⟩, h3⟩, h4⟩ := h
    unfold Memory.writeByte
    split
    · rename_i hlt
      split
      · exact hf
      · rename_i hv
        simp only [Memory.wfFrom, Bool.and_eq_true, decide_eq_true_eq]
        exact ⟨⟨⟨hlo, ha⟩, hv⟩, ⟨⟨hlt, h2⟩, h3⟩, h4⟩
    · split
      · rename_i hlt hak
        subst hak
        split
        · exact Memory.wfFrom_mono h4 (by omega)
        · rename_i hv
          simp only [Memory.wfFrom, Bool.and_eq_true, decide_eq_true_eq]
          exact ⟨⟨⟨hlo, ha⟩, hv⟩, h4⟩
      · rename_i hlt hak
        simp only [Memory.wfFrom, Bool.and_eq_true, decide_eq_true_eq]
        exact ⟨⟨⟨h1, h2⟩, h3⟩, ih h4 (by omega)⟩

theorem Memory.wf_writeByte {m : Memory} (h : Memory.wf m = true) (a : Word) (v : Byte) :
    Memory.wf (Memory.writeByte m a.toNat v) = true :=
  Memory.wfFrom_writeByte h (Nat.zero_le _) a.isLt v

/-- Two canonical memories that read the same everywhere are the same list. -/
theorem Memory.wfFrom_ext {lo : Nat} {m n : Memory} (hm : Memory.wfFrom lo m = true) (hn : Memory.wfFrom lo n = true)
    (h : ∀ a, Memory.readByte m a = Memory.readByte n a) : m = n := by
  induction m generalizing lo n with
  | nil =>
    cases n with
    | nil => rfl
    | cons c rest =>
      obtain ⟨k, b⟩ := c
      simp only [Memory.wfFrom, Bool.and_eq_true, decide_eq_true_eq] at hn
      have := h k
      simp [Memory.readByte] at this
      exact absurd this.symm hn.1.2
  | cons c rest ih =>
    obtain ⟨k, b⟩ := c
    have hm' := hm
    simp only [Memory.wfFrom, Bool.and_eq_true, decide_eq_true_eq] at hm
    obtain ⟨⟨⟨hm1, hm2⟩, hm3⟩, hm4⟩ := hm
    cases n with
    | nil =>
      have := h k
      simp [Memory.readByte] at this
      exact absurd this hm3
    | cons c' rest' =>
      obtain ⟨k', b'⟩ := c'
      have hn' := hn
      simp only [Memory.wfFrom, Bool.and_eq_true, decide_eq_true_eq] at hn
      obtain ⟨⟨⟨hn1, hn2⟩, hn3⟩, hn4⟩ := hn
      have hk : k = k' := by
        rcases Nat.lt_trichotomy k k' with hlt | heq | hgt
        · have h1 := h k
          have h2 : Memory.readByte ((k', b') :: rest') k = Memory.unlisted :=
            Memory.readByte_below (lo := k') (by
              simp only [Memory.wfFrom, Bool.and_eq_true, decide_eq_true_eq]
              exact ⟨⟨⟨Nat.le_refl _, hn2⟩, hn3⟩, hn4⟩) hlt
          rw [h2] at h1
          simp [Memory.readByte] at h1
          exact absurd h1 hm3
        · exact heq
        · have h1 := h k'
          have h2 : Memory.readByte ((k, b) :: rest) k' = Memory.unlisted :=
            Memory.readByte_below (lo := k) (by
              simp only [Memory.wfFrom, Bool.and_eq_true, decide_eq_true_eq]
              exact ⟨⟨⟨Nat.le_refl _, hm2⟩, hm3⟩, hm4⟩) hgt
          rw [h2] at h1
          simp [Memory.readByte] at h1
          exact absurd h1.symm hn3
      subst hk
      have hb : b = b' := by simpa [Memory.readByte] using h k
      subst hb
      congr 1
      refine ih hm4 hn4 fun a => ?_
      by_cases ha : a = k
      · subst ha
        rw [Memory.readByte_below hm4 (by omega), Memory.readByte_below hn4 (by omega)]
      · have := h a
        simpa [Memory.readByte, Ne.symm ha] using this

/-! ### The state's byte operations -/

theorem State.byteAt_storeByte_same {s : State} (h : Memory.wf s.mem = true) (a : Word) (v : Byte) :
    (s.storeByte a v).byteAt a = v := by
  unfold State.byteAt
  simp only [State.storeByte_mem]
  exact Memory.readByte_writeByte_same h _ _

theorem State.byteAt_storeByte_other (s : State) {a a' : Word} (hne : a' ≠ a) (v : Byte) :
    (s.storeByte a v).byteAt a' = s.byteAt a' := by
  unfold State.byteAt
  simp only [State.storeByte_mem]
  exact Memory.readByte_writeByte_other _ (fun h => hne (BitVec.eq_of_toNat_eq h)) _

theorem State.wf_writeBusByte {s : State} (h : Memory.wf s.mem = true) (ans : Answer) (a : Word) (v : Byte) :
    Memory.wf (s.writeBusByte ans a v).mem = true := by
  unfold State.writeBusByte
  split
  · exact Memory.wf_writeByte h a v
  · rwa [(s.storeClintByte_bus a v).2.1]
  · exact h
  · exact h

theorem State.wf_agentWrites {s : State} (h : Memory.wf s.mem = true) : Memory.wf s.agentWrites.mem = true := by
  unfold State.agentWrites
  generalize s.input.writes = l
  induction l generalizing s with
  | nil => exact h
  | cons w rest ih => exact ih (State.wf_writeBusByte h _ _ _)

/-! ### What reset leaves of an interrupted store (70_reset_and_hazards R403) -/

theorem Memory.wf_takeOver (new : Memory) (addrs : List Word) {old : Memory} (h : Memory.wf old = true) :
    Memory.wf (Memory.takeOver new addrs old) = true := by
  unfold Memory.takeOver
  induction addrs generalizing old with
  | nil => exact h
  | cons a rest ih => exact ih (Memory.wf_writeByte h a _)

/-- Each byte is the new one at the listed addresses, and the old one everywhere else. -/
theorem Memory.readByte_takeOver (new : Memory) (addrs : List Word) {old : Memory} (h : Memory.wf old = true)
    (x : Word) :
    Memory.readByte (Memory.takeOver new addrs old) x.toNat
      = if x ∈ addrs then Memory.readByte new x.toNat else Memory.readByte old x.toNat := by
  unfold Memory.takeOver
  induction addrs generalizing old with
  | nil => simp
  | cons a rest ih =>
    rw [List.foldl_cons, ih (Memory.wf_writeByte h a _)]
    by_cases hx : x ∈ rest
    · simp [hx]
    · by_cases ha : x = a
      · subst ha
        simp [hx, Memory.readByte_writeByte_same h]
      · simp [hx, ha, Memory.readByte_writeByte_other old (fun e => ha (BitVec.eq_of_toNat_eq e))]

/-! ### The CLINT's bytes, and what a write of one byte leaves alone -/

/-- The bytes of a 64-bit register after one of them is replaced. -/
theorem setByte64_byte (v : BitVec 64) (k j : Nat) (hj : j < 8) (b : Byte) :
    (setByte64 v k b).extractLsb' (8 * j) 8 = if j = k then b else v.extractLsb' (8 * j) 8 := by
  have hff : ∀ m, (0xFF#64).getLsbD m = decide (m < 8) := by
    intro m
    rw [show (0xFF#64) = BitVec.setWidth 64 (BitVec.allOnes 8) by decide]
    simp only [BitVec.getLsbD_setWidth, BitVec.getLsbD_allOnes]
    by_cases h : m < 8 <;> simp [h]
    omega
  apply BitVec.eq_of_getLsbD_eq
  intro i hi
  have h64 : 8 * j + i < 64 := by omega
  rw [apply_ite (fun x : Byte => x.getLsbD i)]
  simp only [setByte64, BitVec.getLsbD_extractLsb', BitVec.getLsbD_or, BitVec.getLsbD_and, BitVec.getLsbD_not,
    BitVec.getLsbD_shiftLeft, BitVec.getLsbD_setWidth, hff, hi, h64, decide_true, Bool.true_and]
  by_cases hjk : j = k
  · subst hjk
    simp [hi, show i < 64 by omega]
  · rw [if_neg hjk]
    by_cases h1 : 8 * j + i < 8 * k
    · simp [h1]
    · simp [h1, show ¬(8 * j + i - 8 * k < 8) by omega, BitVec.getLsbD_of_ge b _ (show 8 ≤ 8 * j + i - 8 * k by omega)]

/-- What each byte of the CLINT's registers reads after a write of one (60_exceptions R387). -/
theorem State.clintByte_setClintByte (s : State) (a b : Word) (v : Byte) (hb : (s.clintByte b).isSome = true) :
    (s.setClintByte b v).clintByte a =
      if a = b then
        some (if (a - Config.clintMsip s.cfg).toNat < 4 then
          (if a = Config.clintMsip s.cfg then v &&& 1#8 else 0#8) else v)
      else s.clintByte a := by
  have hm : (if v.getLsbD 0 then 1#8 else 0#8) = v &&& 1#8 := by revert v; decide
  have ne : ∀ x : Word, a ≠ b → (a - x).toNat ≠ (b - x).toNat := fun x h e =>
    h (by simpa using congrArg (· + x) (BitVec.eq_of_toNat_eq e))
  by_cases hab : a = b
  · subst hab
    rw [if_pos rfl]
    unfold State.setClintByte
    by_cases h1 : (a - Config.clintMsip s.cfg).toNat < 4
    · rw [if_pos h1, if_pos h1]
      by_cases h2 : a = Config.clintMsip s.cfg
      · rw [if_pos h2, if_pos h2, ← hm]
        unfold State.clintByte; rw [if_pos h1]
        cases v.getLsbD 0 <;> simp [h2]
      · rw [if_neg h2, if_neg h2]
        unfold State.clintByte; rw [if_pos h1, if_neg (fun h => h2 h.1)]
    · rw [if_neg h1, if_neg h1]
      by_cases h2 : (a - Config.clintMtimecmp s.cfg).toNat < 8
      · rw [if_pos h2]
        unfold State.clintByte; rw [if_neg h1, if_pos h2]
        simp only [setByte64_byte _ _ _ h2, if_true]
      · rw [if_neg h2]
        by_cases h3 : (a - Config.clintMtime s.cfg).toNat < 8
        · rw [if_pos h3]
          unfold State.clintByte; rw [if_neg h1, if_neg h2, if_pos h3]
          simp only [setByte64_byte _ _ _ h3, if_true]
        · unfold State.clintByte at hb; rw [if_neg h1, if_neg h2, if_neg h3] at hb; cases hb
  · rw [if_neg hab]
    unfold State.setClintByte
    split
    · split
      · rename_i h2
        unfold State.clintByte
        split
        · rw [if_neg (fun h => hab (h.1.trans h2.symm)), if_neg (fun h => hab (h.1.trans h2.symm))]
        · rfl
      · rfl
    · split
      · rename_i h2
        unfold State.clintByte
        split
        · rfl
        · split
          · rename_i h3; simp only [setByte64_byte _ _ _ h3, if_neg (ne _ hab)]
          · rfl
      · split
        · rename_i h2
          unfold State.clintByte
          split
          · rfl
          · split
            · rfl
            · split
              · rename_i h3; simp only [setByte64_byte _ _ _ h3, if_neg (ne _ hab)]
              · rfl
        · rfl

/-- A store of one byte to the CLINT, likewise; where it has no register nothing changes. -/
theorem State.clintByte_storeClintByte (s : State) (a b : Word) (v : Byte) :
    (s.storeClintByte b v).clintByte a =
      if a = b ∧ (s.clintByte b).isSome then
        some (if (a - Config.clintMsip s.cfg).toNat < 4 then
          (if a = Config.clintMsip s.cfg then v &&& 1#8 else 0#8) else v)
      else s.clintByte a := by
  unfold State.storeClintByte
  split
  · rename_i h; simp [h]
  · rename_i old h
    have := State.clintByte_setClintByte s a b v (by simp [h])
    show (s.setClintByte b v).clintByte a = _
    rw [this]; simp [h]

/-- What a store notes of one address is nothing to another. -/
theorem noteStale_other (l : List Host.Cell) (a : Word) (b : Nat) (old : Byte) (h : b ≠ a.toNat) :
    ((noteStale l b old).filter fun c => c.1 == a.toNat) = l.filter fun c => c.1 == a.toNat := by
  unfold noteStale; split
  · rfl
  · simp [h]

/-- Nothing that may still be fetched is forgotten by a store. -/
theorem noteStale_keeps (l : List Host.Cell) (b : Nat) (old : Byte) (c : Host.Cell) (h : c ∈ l) :
    c ∈ noteStale l b old := by
  unfold noteStale; split
  · exact h
  · simp [h]

/-- A write of one byte on the bus leaves every other one. -/
theorem State.writeBusByte_other (t : State) (ans : Answer) (b : Word) (v : Byte) (a : Word) (h : b ≠ a) :
    (t.writeBusByte ans b v).byteAt a = t.byteAt a ∧ (t.writeBusByte ans b v).clintByte a = t.clintByte a
      ∧ (t.writeBusByte ans b v).staleAt a = t.staleAt a := by
  have hn : b.toNat ≠ a.toNat := fun e => h (BitVec.eq_of_toNat_eq e)
  unfold State.writeBusByte
  split
  · refine ⟨State.byteAt_storeByte_other _ (Ne.symm h) _, rfl, ?_⟩
    unfold State.staleAt State.storeByte; split <;> simp [noteStale_other _ _ _ _ hn]
  · refine ⟨?_, ?_, ?_⟩
    · unfold State.byteAt; rw [(t.storeClintByte_bus _ _).2.1]
    · rw [State.clintByte_storeClintByte]; simp [Ne.symm h]
    · unfold State.staleAt State.storeClintByte; split
      · rfl
      · simp only; split <;> simp [noteStale_other _ _ _ _ hn]
  · exact ⟨rfl, rfl, rfl⟩
  · exact ⟨rfl, rfl, rfl⟩

end Sys2Proof.Machine
end

