-- ==== Sys2Proof/Laws/Access.lean ====
section
/-! SUPPORT. Data accesses: what `memRead` and `memWrite` can answer, and what they do in plain memory. -/

namespace Sys2Proof.Machine

open Sys2Proof

/-! ### The parts of an access -/

/-- The addresses of the `n` bytes from `a` on. -/
def accessAddrs (a : Word) (n : Nat) : List Word := (List.range n).map fun i => a + BitVec.ofNat 32 i

/-- R108: together the parts are the access's bytes, in ascending order, however it is split. -/
theorem splitAccess_addrs (m : MisalignedSplit) (a : Word) (w : Width) :
    (splitAccess m a w).flatMap Part.addrs = accessAddrs a w.bytes := by
  cases w <;> cases m <;> simp only [splitAccess, Width.bytes, accessAddrs]
  all_goals repeat' split
  all_goals simp [Part.addrs, List.range_succ, BitVec.add_assoc]

/-- R108: a part begins at one of the access's bytes and is not empty. -/
theorem splitAccess_part {m : MisalignedSplit} {a : Word} {w : Width} {p : Part} (h : p ∈ splitAccess m a w) :
    ∃ i : Nat, i < w.bytes ∧ p.addr = a + BitVec.ofNat 32 i ∧ 0 < p.len ∧ i + p.len ≤ w.bytes := by
  have low : ∀ n, 0 < n → n ≤ w.bytes → p = ⟨a, n⟩ →
      ∃ i : Nat, i < w.bytes ∧ p.addr = a + BitVec.ofNat 32 i ∧ 0 < p.len ∧ i + p.len ≤ w.bytes := by
    rintro n h0 h1 rfl
    exact ⟨0, by omega, by simp, h0, by simpa using h1⟩
  have high : ∀ k n : Nat, 0 < n → k + n ≤ w.bytes → p = ⟨a + BitVec.ofNat 32 k, n⟩ →
      ∃ i : Nat, i < w.bytes ∧ p.addr = a + BitVec.ofNat 32 i ∧ 0 < p.len ∧ i + p.len ≤ w.bytes := by
    rintro k n h0 h1 rfl
    exact ⟨k, by omega, rfl, h0, h1⟩
  cases w <;> cases m <;> simp only [splitAccess, Width.bytes] at h low high ⊢
  all_goals repeat' split at h
  all_goals simp only [List.mem_cons, List.not_mem_nil, or_false] at h
  all_goals try refine Or.elim h (fun h => ?_) fun h => ?_
  all_goals try refine Or.elim h (fun h => ?_) fun h => ?_
  all_goals
    first
      | exact low _ (by omega) (by omega) h
      | exact high 1 _ (by omega) (by omega) h
      | exact high 2 _ (by omega) (by omega) h
      | exact high 3 _ (by omega) (by omega) h

theorem splitAccess_ne_nil (m : MisalignedSplit) (a : Word) (w : Width) : splitAccess m a w ≠ [] := by
  cases w <;> cases m <;> simp only [splitAccess]
  all_goals repeat' split
  all_goals simp

/-! ### Reads -/

/-- R116: the mode of a data access is the rule's. -/
theorem canRead_eq (s : State) (r : Region) : canRead r.perms s.effPriv = mayRead s r := by
  unfold canRead State.effPriv mayRead State.userData
  cases s.debugMode <;> cases s.mstatus.mprv <;> cases s.priv <;> cases s.mstatus.mpp <;> simp

theorem canWrite_eq (s : State) (r : Region) : canWrite r.perms s.effPriv = mayWrite s r := by
  unfold canWrite State.effPriv mayWrite State.userData
  cases s.debugMode <;> cases s.mstatus.mprv <;> cases s.priv <;> cases s.mstatus.mpp <;> simp

theorem State.readAnswer_memory {s : State} {p : Part} (h : ReadableByte s p.addr) : s.readAnswer p = .memory := by
  obtain ⟨r, hr, hp, hk⟩ := h
  unfold State.readAnswer
  rw [hr]
  rcases hk with hk | hk <;> simp [canRead_eq, hp, hk, RegionKind.answer]

/-- R110, R121: a part of a read is answered with an error exactly where the rule says. -/
theorem State.readAnswer_isOk {s : State} {p : Part} : (s.readAnswer p).isOk = false ↔ CannotRead s p.addr := by
  unfold State.readAnswer CannotRead
  cases h : regionAt s.cfg.memMap p.addr with
  | none => simp [Answer.isOk]
  | some r =>
    cases hp : canRead r.perms s.effPriv <;> cases hk : r.kind <;>
      simp [Answer.isOk, RegionKind.answer, ← canRead_eq, hp, hk]

/-- R111, R121: a part of a write is answered with an error exactly where the rule says. -/
theorem State.writeAnswer_isOk {s : State} {p : Part} : (s.writeAnswer p).isOk = false ↔ CannotWrite s p.addr := by
  unfold State.writeAnswer CannotWrite
  cases h : regionAt s.cfg.memMap p.addr with
  | none => simp [Answer.isOk]
  | some r =>
    cases hp : canWrite r.perms s.effPriv <;> cases hk : r.kind <;>
      simp [Answer.isOk, RegionKind.answer, ← canWrite_eq, hp, hk]

/-- A part that can be read goes to a device exactly where a device lies. -/
theorem State.readAnswer_device {s : State} {p : Part} :
    s.readAnswer p = .device ↔ deviceAt s p.addr = true ∧ ¬CannotRead s p.addr := by
  rw [← State.readAnswer_isOk]
  unfold State.readAnswer deviceAt
  cases h : regionAt s.cfg.memMap p.addr with
  | none => simp
  | some r => cases hp : canRead r.perms s.effPriv <;> cases hk : r.kind <;> simp [Answer.isOk, RegionKind.answer, hp, hk]

theorem State.writeAnswer_device {s : State} {p : Part} :
    s.writeAnswer p = .device ↔ deviceAt s p.addr = true ∧ ¬CannotWrite s p.addr := by
  rw [← State.writeAnswer_isOk]
  unfold State.writeAnswer deviceAt
  cases h : regionAt s.cfg.memMap p.addr with
  | none => simp
  | some r => cases hp : canWrite r.perms s.effPriv <;> cases hk : r.kind <;> simp [Answer.isOk, RegionKind.answer, hp, hk]

theorem wordOfBytes_toNat : ∀ bs : List Byte, bs.length ≤ 4 →
    (wordOfBytes bs).toNat = bs.foldr (fun b acc => b.toNat + 256 * acc) 0 := by
  have step : ∀ (b : Byte) (w : Word), w.toNat < 2 ^ 24 →
      ((w <<< 8) ||| b.setWidth 32).toNat = b.toNat + 256 * w.toNat := by
    intro b w hw
    have h1 : (w <<< 8 ||| b.setWidth 32) = (w <<< 8) + b.setWidth 32 := by
      rw [BitVec.add_eq_or_of_and_eq_zero]
      ext i hi
      have := b.isLt
      by_cases h8 : i < 8
      · simp [h8]
      · have : b.getLsbD i = false := BitVec.getLsbD_of_ge _ _ (by omega)
        simp [this]
    rw [h1, BitVec.toNat_add, BitVec.toNat_shiftLeft, BitVec.toNat_setWidth]
    have := b.isLt
    simp only [Nat.shiftLeft_eq]
    omega
  have bound : ∀ bs : List Byte, bs.foldr (fun b acc => b.toNat + 256 * acc) 0 < 256 ^ bs.length := by
    intro bs
    induction bs with
    | nil => simp
    | cons b rest ih =>
      have := b.isLt
      simp only [List.foldr_cons, List.length_cons, Nat.pow_succ]
      omega
  intro bs
  induction bs with
  | nil => intro _; rfl
  | cons b rest ih =>
    intro hl
    simp only [List.length_cons] at hl
    have hr := ih (by omega)
    have hb := bound rest
    have hp : 256 ^ rest.length ≤ 256 ^ 3 := Nat.pow_le_pow_right (by omega) (by omega)
    show ((wordOfBytes rest <<< 8) ||| b.setWidth 32).toNat = _
    rw [step b _ (by rw [hr]; omega), hr]
    rfl

theorem State.bytesValue_eq (s : State) (a : Word) (w : Width) :
    wordOfBytes ((accessAddrs a w.bytes).map s.byteAt) = BitVec.ofNat 32 (s.bytesValue a w.bytes) := by
  apply BitVec.eq_of_toNat_eq
  rw [wordOfBytes_toNat _ (by cases w <;> simp [accessAddrs, Width.bytes]), BitVec.toNat_ofNat]
  have b0 := (s.byteAt a).isLt
  have b1 := (s.byteAt (a + 1#32)).isLt
  have b2 := (s.byteAt (a + 2#32)).isLt
  have b3 := (s.byteAt (a + 3#32)).isLt
  cases w <;> simp [accessAddrs, Width.bytes, List.range_succ, State.bytesValue] <;> omega

theorem State.deviceValue_eq (s : State) (a : Word) (w : Width) :
    wordOfBytes ((accessAddrs a w.bytes).map (Config.freeDeviceByte s.device s.draws))
      = BitVec.ofNat 32 (s.deviceValue a w.bytes) := by
  apply BitVec.eq_of_toNat_eq
  rw [wordOfBytes_toNat _ (by cases w <;> simp [accessAddrs, Width.bytes]), BitVec.toNat_ofNat]
  have b0 := (Config.freeDeviceByte s.device s.draws a).isLt
  have b1 := (Config.freeDeviceByte s.device s.draws (a + 1#32)).isLt
  have b2 := (Config.freeDeviceByte s.device s.draws (a + 2#32)).isLt
  have b3 := (Config.freeDeviceByte s.device s.draws (a + 3#32)).isLt
  cases w <;> simp [accessAddrs, Width.bytes, List.range_succ, State.deviceValue] <;> omega

/-- The transfers of a read: devices are given theirs, in order, and nothing else changes. -/
theorem State.readParts_eq (s : State) (ps : List Part) :
    s.readParts ps =
      { s with device :=
          ((ps.filter fun p => decide (s.readAnswer p = .device)).map Part.asRead).reverse ++ s.device } := by
  have h : ∀ (l : List Part) (t : State),
      l.foldl (fun t p => t.readPart (s.readAnswer p) p) t
        = { t with device :=
            ((l.filter fun p => decide (s.readAnswer p = .device)).map Part.asRead).reverse ++ t.device } := by
    intro l
    induction l with
    | nil => intro t; rfl
    | cons p rest ih =>
      intro t
      rw [List.foldl_cons, ih]
      unfold State.readPart
      by_cases hp : s.readAnswer p = .device
      · simp [hp, State.giveDevice, Part.asRead]
      · simp [hp]
  exact h ps s

theorem State.readParts_bus (s : State) (ps : List Part) :
    OnlyBus s (s.readParts ps) ∧ (s.readParts ps).mem = s.mem := by
  rw [State.readParts_eq]
  exact ⟨rfl, rfl⟩

/-- R107, R110: a read of plain memory gives the little-endian value of its bytes, at any alignment and however
misaligned accesses are split. -/
theorem State.memRead_plain {s : State} {a : Word} {w : Width} (h : Readable s a w.bytes) :
    s.memRead a w = .value (BitVec.ofNat 32 (s.bytesValue a w.bytes)) s := by
  have hm : ∀ p ∈ splitAccess s.cfg.misalignedSplit a w, s.readAnswer p = .memory := by
    intro p hp
    obtain ⟨i, hi, ha, -, -⟩ := splitAccess_part hp
    exact State.readAnswer_memory (ha ▸ h i hi)
  have hn : (splitAccess s.cfg.misalignedSplit a w).find? (fun p => !(s.readAnswer p).isOk) = none := by
    rw [List.find?_eq_none]
    intro p hp
    simp [hm p hp, Answer.isOk]
  have hb : (splitAccess s.cfg.misalignedSplit a w).flatMap s.partBytes = (accessAddrs a w.bytes).map s.byteAt := by
    rw [← splitAccess_addrs s.cfg.misalignedSplit a w, List.map_flatMap]
    apply List.flatMap_congr
    intro p hp
    simp only [State.partBytes, hm p hp]
    rfl
  have hd : s.readParts (splitAccess s.cfg.misalignedSplit a w) = s := by
    rw [State.readParts_eq, List.filter_eq_nil_iff.2 (fun p hp => by simp [hm p hp])]
    rfl
  unfold State.memRead
  rw [hn]
  simp only [hb, State.bytesValue_eq, hd]

/-- Everything a completed read can leave: devices have seen its transfers. -/
theorem State.memRead_value {s t : State} {a v : Word} {w : Width} (h : s.memRead a w = .value v t) :
    t = { s with device := t.device } := by
  unfold State.memRead at h
  split at h
  · cases h
  · cases h
    rw [State.readParts_eq]

/-- Everything a faulting read can leave. -/
theorem State.memRead_busError {s t : State} {a addr : Word} {w : Width} (h : s.memRead a w = .busError addr t) :
    t = { s with device := t.device } := by
  unfold State.memRead at h
  split at h
  · cases h
    rw [State.readParts_eq]
  · cases h

/-- The first of a list's parts that a test picks out, and what stands before it. -/
theorem find_split {ok : Part → Bool} {pre post : List Part} {p : Part} (hpre : ∀ q ∈ pre, ok q = true)
    (hp : ok p = false) :
    (pre ++ p :: post).find? (fun q => !ok q) = some p ∧ (pre ++ p :: post).takeWhile ok = pre := by
  constructor
  · rw [List.find?_append, List.find?_eq_none.2 (fun q hq => by simp [hpre q hq]), List.find?_cons]
    simp [hp]
  · rw [List.takeWhile_append_of_pos hpre, List.takeWhile_cons]
    simp [hp]

/-- R110, 60_exceptions R355: a read faults at the first part that cannot be read, devices having been given the parts
before it. -/
theorem State.memRead_fault {s : State} {a : Word} {w : Width} {pre post : List Part} {p : Part}
    (h : splitAccess s.cfg.misalignedSplit a w = pre ++ p :: post) (hpre : ∀ q ∈ pre, ¬CannotRead s q.addr)
    (hp : CannotRead s p.addr) :
    s.memRead a w = .busError p.addr
      { s with device := ((pre.filter fun q => deviceAt s q.addr).map Part.asRead).reverse ++ s.device } := by
  have hok : ∀ q ∈ pre, (s.readAnswer q).isOk = true := fun q hq => by
    by_contra hne
    exact hpre q hq (State.readAnswer_isOk.1 (by simpa using hne))
  have hbad : (s.readAnswer p).isOk = false := State.readAnswer_isOk.2 hp
  have hs := find_split (ok := fun q => (s.readAnswer q).isOk) (post := post) hok hbad
  have hf : pre.filter (fun q => decide (s.readAnswer q = .device)) = pre.filter fun q => deviceAt s q.addr := by
    apply List.filter_congr
    intro q hq
    rw [Bool.eq_iff_iff, decide_eq_true_eq, State.readAnswer_device]
    exact and_iff_left (hpre q hq)
  unfold State.memRead
  rw [h, hs.1, hs.2]
  simp only [State.readParts_eq, hf]

/-- R110, R115: a read that devices alone answer gives the bytes they give, each part read once and in order. -/
theorem State.memRead_device {s : State} {a : Word} {w : Width}
    (h : ∀ p ∈ splitAccess s.cfg.misalignedSplit a w, deviceAt s p.addr = true ∧ ¬CannotRead s p.addr) :
    s.memRead a w = .value (BitVec.ofNat 32 (s.deviceValue a w.bytes))
      { s with device := ((splitAccess s.cfg.misalignedSplit a w).map Part.asRead).reverse ++ s.device } := by
  have hm : ∀ p ∈ splitAccess s.cfg.misalignedSplit a w, s.readAnswer p = .device :=
    fun p hp => State.readAnswer_device.2 (h p hp)
  have hn : (splitAccess s.cfg.misalignedSplit a w).find? (fun p => !(s.readAnswer p).isOk) = none := by
    rw [List.find?_eq_none]
    intro p hp
    simp [hm p hp, Answer.isOk]
  have hb : (splitAccess s.cfg.misalignedSplit a w).flatMap s.partBytes
      = (accessAddrs a w.bytes).map (Config.freeDeviceByte s.device s.draws) := by
    rw [← splitAccess_addrs s.cfg.misalignedSplit a w, List.map_flatMap]
    apply List.flatMap_congr
    intro p hp
    simp only [State.partBytes, hm p hp]
    rfl
  have hf : (splitAccess s.cfg.misalignedSplit a w).filter (fun p => decide (s.readAnswer p = .device))
      = splitAccess s.cfg.misalignedSplit a w := List.filter_eq_self.2 fun p hp => by simp [hm p hp]
  unfold State.memRead
  rw [hn]
  simp only [hb, State.deviceValue_eq, State.readParts_eq, hf]

/-! ### Writes -/

theorem State.writePart_bus {s : State} (keep : Word → Bool) (a v : Word) (ans : Answer) (p : Part) :
    OnlyBus s (s.writePart keep a v ans p)
      ∧ (Memory.wf s.mem = true → Memory.wf (s.writePart keep a v ans p).mem = true) := by
  unfold State.writePart
  split
  · split
    · exact ⟨rfl, id⟩
    · exact ⟨rfl, id⟩
  · generalize p.addrs = l
    induction l generalizing s with
    | nil => exact ⟨rfl, id⟩
    | cons x rest ih =>
      simp only [List.foldl_cons]
      split
      · have h := ih (s := s.writeBusByte ans x (byteOf v (x - a).toNat))
        exact ⟨OnlyBus.trans (s.writeBusByte_bus _ _ _).1 h.1, fun hw => h.2 (State.wf_writeBusByte hw _ _ _)⟩
      · exact ih (s := s)

theorem State.writeParts_bus (s : State) (keep : Word → Bool) (a v : Word) (ps : List Part) :
    OnlyBus s (s.writeParts keep a v ps)
      ∧ (Memory.wf s.mem = true → Memory.wf (s.writeParts keep a v ps).mem = true) := by
  have h : ∀ (l : List Part) (t : State),
      OnlyBus t (l.foldl (fun t p => t.writePart keep a v (s.writeAnswer p) p) t)
        ∧ (Memory.wf t.mem = true →
          Memory.wf (l.foldl (fun t p => t.writePart keep a v (s.writeAnswer p) p) t).mem = true) := by
    intro l
    induction l with
    | nil => intro t; exact ⟨rfl, id⟩
    | cons p rest ih =>
      intro t
      have h1 := State.writePart_bus (s := t) keep a v (s.writeAnswer p) p
      have h2 := ih (t.writePart keep a v (s.writeAnswer p) p)
      exact ⟨OnlyBus.trans h1.1 h2.1, fun hw => h2.2 (h1.2 hw)⟩
  exact h ps s

/-- Everything a completed write can change, and that memory stays canonical. -/
theorem State.memWrite_done {s t : State} {a v : Word} {w : Width} (h : s.memWrite a w v = .done t) :
    OnlyBus s t ∧ (Memory.wf s.mem = true → Memory.wf t.mem = true) := by
  unfold State.memWrite at h
  repeat' split at h
  all_goals first
    | cases h; done
    | (cases h; exact State.writeParts_bus s _ _ _ _)

/-- Everything a faulting write can change, and that memory stays canonical. -/
theorem State.memWrite_busError {s t : State} {a v addr : Word} {w : Width}
    (h : s.memWrite a w v = .busError addr t) :
    OnlyBus s t ∧ (Memory.wf s.mem = true → Memory.wf t.mem = true) := by
  unfold State.memWrite at h
  repeat' split at h
  all_goals first
    | cases h; done
    | (cases h; exact State.writeParts_bus s _ _ _ _)

theorem State.writeAnswer_memory {s : State} {p : Part} (h : WritableByte s p.addr) : s.writeAnswer p = .memory := by
  obtain ⟨r, hr, hp, hk⟩ := h
  unfold State.writeAnswer
  rw [hr]
  simp [canWrite_eq, hp, hk, RegionKind.answer]

/-- Storing the bytes of `v` at a list of addresses. -/
def State.storeBytes (s : State) (a v : Word) (l : List Word) : State :=
  l.foldl (fun t x => t.storeByte x (byteOf v (x - a).toNat)) s

theorem State.foldl_writePart_memory (s0 : State) (a v : Word) :
    ∀ (ps : List Part) (s : State), (∀ p ∈ ps, s0.writeAnswer p = .memory) →
      ps.foldl (fun t p => t.writePart (fun _ => true) a v (s0.writeAnswer p) p) s
        = s.storeBytes a v (ps.flatMap Part.addrs) := by
  intro ps
  induction ps with
  | nil => intro s _; rfl
  | cons p rest ih =>
    intro s h
    have hp := h p (by simp)
    rw [List.foldl_cons, ih _ (fun q hq => h q (by simp [hq]))]
    simp [State.storeBytes, State.writePart, State.writeBusByte, hp]

/-- R107, R111: a write to plain memory completes, storing its bytes in order however it is split. -/
theorem State.memWrite_plain {s : State} {a v : Word} {w : Width} (h : Writable s a w.bytes) :
    s.memWrite a w v = .done (s.storeBytes a v (accessAddrs a w.bytes)) := by
  have hm : ∀ p ∈ splitAccess s.cfg.misalignedSplit a w, s.writeAnswer p = .memory := by
    intro p hp
    obtain ⟨i, hi, ha, -, -⟩ := splitAccess_part hp
    exact State.writeAnswer_memory (ha ▸ h i hi)
  have h3 : (splitAccess s.cfg.misalignedSplit a w).find? (fun p => !(s.writeAnswer p).isOk) = none := by
    rw [List.find?_eq_none]
    intro p hp
    simp [hm p hp, Answer.isOk]
  unfold State.memWrite
  rw [h3]
  simp only [State.writeParts]
  rw [State.foldl_writePart_memory s a v _ s hm, splitAccess_addrs]

/-- R111, R115: a write that devices alone answer gives each its part, once and in order. -/
theorem State.memWrite_device {s : State} {a v : Word} {w : Width}
    (h : ∀ p ∈ splitAccess s.cfg.misalignedSplit a w, deviceAt s p.addr = true ∧ ¬CannotWrite s p.addr) :
    s.memWrite a w v = .done
      { s with device :=
          ((splitAccess s.cfg.misalignedSplit a w).map (Part.asWrite a v)).reverse ++ s.device } := by
  have hm : ∀ p ∈ splitAccess s.cfg.misalignedSplit a w, s.writeAnswer p = .device :=
    fun p hp => State.writeAnswer_device.2 (h p hp)
  have hn : (splitAccess s.cfg.misalignedSplit a w).find? (fun p => !(s.writeAnswer p).isOk) = none := by
    rw [List.find?_eq_none]
    intro p hp
    simp [hm p hp, Answer.isOk]
  have hw : ∀ p ∈ splitAccess s.cfg.misalignedSplit a w, ∀ t : State,
      t.writePart (fun _ => true) a v .device p = t.giveDevice (Part.asWrite a v p) := by
    intro p hp t
    obtain ⟨i, hi, ha, -, hl⟩ := splitAccess_part hp
    have h4 : w.bytes ≤ 4 := by cases w <;> decide
    have e : p.addrs.map (fun x => byteOf v (x - a).toNat)
        = (List.range p.len).map fun k => v.extractLsb' (8 * ((p.addr - a).toNat + k)) 8 := by
      unfold Part.addrs
      rw [List.map_map]
      apply List.map_congr_left
      intro k hk
      have hk' := List.mem_range.1 hk
      have e1 : (p.addr + BitVec.ofNat 32 k - a).toNat = (p.addr - a).toNat + k := by
        rw [ha]
        have : ∀ n : Nat, n < 2 ^ 32 → (BitVec.ofNat 32 n).toNat = n := fun n hn => by
          rw [BitVec.toNat_ofNat, Nat.mod_eq_of_lt hn]
        have e2 : a + BitVec.ofNat 32 i + BitVec.ofNat 32 k - a = BitVec.ofNat 32 (i + k) := by
          rw [BitVec.add_assoc, ← BitVec.ofNat_add, BitVec.add_comm, BitVec.add_sub_cancel]
        have e3 : a + BitVec.ofNat 32 i - a = BitVec.ofNat 32 i := by rw [BitVec.add_comm, BitVec.add_sub_cancel]
        rw [e2, e3, this _ (by omega), this _ (by omega)]
      show byteOf v (p.addr + BitVec.ofNat 32 k - a).toNat = _
      rw [e1]
      rfl
    unfold State.writePart
    simp only [if_true, e]
    rfl
  have hfold : ∀ (l : List Part), (∀ p ∈ l, p ∈ splitAccess s.cfg.misalignedSplit a w) → ∀ t : State,
      l.foldl (fun t p => t.writePart (fun _ => true) a v (s.writeAnswer p) p) t
        = { t with device := (l.map (Part.asWrite a v)).reverse ++ t.device } := by
    intro l
    induction l with
    | nil => intro _ t; rfl
    | cons p rest ih =>
      intro hl t
      have hp := hl p (by simp)
      rw [List.foldl_cons, ih (fun q hq => hl q (by simp [hq])), hm p hp, hw p hp]
      simp [State.giveDevice]
  unfold State.memWrite
  rw [hn]
  simp only [State.writeParts]
  rw [hfold _ (fun _ hp => hp)]

theorem State.storeBytes_frame (s : State) (a v : Word) (l : List Word) :
    s.storeBytes a v l = { s with mem := (s.storeBytes a v l).mem, stale := (s.storeBytes a v l).stale } := by
  unfold State.storeBytes
  induction l generalizing s with
  | nil => rfl
  | cons x rest ih =>
    rw [List.foldl_cons, ih]
    rfl

theorem State.wf_storeBytes {s : State} (h : Memory.wf s.mem = true) (a v : Word) (l : List Word) :
    Memory.wf (s.storeBytes a v l).mem = true := by
  unfold State.storeBytes
  induction l generalizing s with
  | nil => exact h
  | cons x rest ih => exact ih (Memory.wf_writeByte h _ _)

theorem State.byteAt_storeBytes_other (s : State) (a v : Word) (l : List Word) {x : Word} (hx : x ∉ l) :
    (s.storeBytes a v l).byteAt x = s.byteAt x := by
  unfold State.storeBytes
  induction l generalizing s with
  | nil => rfl
  | cons y rest ih =>
    simp only [List.mem_cons, not_or] at hx
    rw [List.foldl_cons, ih _ hx.2, State.byteAt_storeByte_other _ hx.1]

theorem State.byteAt_storeBytes_mem {s : State} (h : Memory.wf s.mem = true) (a v : Word) (l : List Word) {x : Word}
    (hx : x ∈ l) : (s.storeBytes a v l).byteAt x = byteOf v (x - a).toNat := by
  unfold State.storeBytes
  induction l generalizing s with
  | nil => cases hx
  | cons y rest ih =>
    rw [List.foldl_cons]
    by_cases hr : x ∈ rest
    · exact ih (Memory.wf_writeByte h _ _) hr
    · have hy : x = y := by
        rcases List.mem_cons.1 hx with h' | h'
        · exact h'
        · exact absurd h' hr
      subst hy
      have := State.byteAt_storeBytes_other (s.storeByte x (byteOf v (x - a).toNat)) a v rest hr
      unfold State.storeBytes at this
      rw [this, State.byteAt_storeByte_same h]

theorem mem_accessAddrs {a x : Word} {n : Nat} (hn : n ≤ 4) : x ∈ accessAddrs a n ↔ (x - a).toNat < n := by
  simp only [accessAddrs, List.mem_map, List.mem_range]
  constructor
  · rintro ⟨i, hi, rfl⟩
    have : a + BitVec.ofNat 32 i - a = BitVec.ofNat 32 i := by
      rw [BitVec.add_comm, BitVec.add_sub_cancel]
    rw [this, BitVec.toNat_ofNat]
    omega
  · intro h
    refine ⟨(x - a).toNat, h, ?_⟩
    rw [BitVec.ofNat_toNat, BitVec.setWidth_eq, BitVec.add_comm, BitVec.sub_add_cancel]

/-- The parts of an access have no address in common. -/
theorem splitAccess_disjoint {m : MisalignedSplit} {a : Word} {w : Width} {pre post : List Part} {p : Part}
    (h : splitAccess m a w = pre ++ p :: post) {q : Part} (hq : q ∈ pre ++ post) {x : Word} (hx : x ∈ q.addrs) :
    x ∉ p.addrs := by
  have hn : ((pre ++ p :: post).flatMap Part.addrs).Nodup := by
    rw [← h, splitAccess_addrs]
    have h4 : w.bytes ≤ 4 := by cases w <;> decide
    refine List.Nodup.map_on ?_ List.nodup_range
    intro i hi j hj e
    have hi' := List.mem_range.1 hi
    have hj' := List.mem_range.1 hj
    have e' := congrArg BitVec.toNat ((BitVec.add_right_inj a).1 e)
    rw [BitVec.toNat_ofNat, BitVec.toNat_ofNat, Nat.mod_eq_of_lt (by omega), Nat.mod_eq_of_lt (by omega)] at e'
    exact e'
  rw [List.flatMap_append, List.flatMap_cons, List.nodup_append, List.nodup_append] at hn
  obtain ⟨-, ⟨-, -, hpp⟩, hpre⟩ := hn
  intro hxp
  rcases List.mem_append.1 hq with h' | h'
  · exact hpre x (List.mem_flatMap.2 ⟨q, h', hx⟩) x (by simp [hxp]) rfl
  · exact hpp x hxp x (List.mem_flatMap.2 ⟨q, h', hx⟩) rfl

/-- One byte of a write leaves every byte of memory as it was, or its own as written. -/
theorem State.byteAt_writeBusByte {s : State} (h : Memory.wf s.mem = true) (ans : Answer) (y : Word) (b : Byte)
    (x : Word) :
    (s.writeBusByte ans y b).byteAt x = s.byteAt x ∨ (x = y ∧ (s.writeBusByte ans y b).byteAt x = b) := by
  unfold State.writeBusByte
  split
  · by_cases hxy : x = y
    · subst hxy
      exact .inr ⟨rfl, State.byteAt_storeByte_same h _ _⟩
    · exact .inl (State.byteAt_storeByte_other _ hxy _)
  · left
    unfold State.byteAt
    rw [(s.storeClintByte_bus y b).2.1]
  · exact .inl rfl
  · exact .inl rfl

/-- A transfer of a write leaves every byte of memory as it was, or one of its own as written. -/
theorem State.byteAt_writePart {s : State} (h : Memory.wf s.mem = true) (keep : Word → Bool) (a v : Word)
    (ans : Answer) (p : Part) (x : Word) :
    (s.writePart keep a v ans p).byteAt x = s.byteAt x
      ∨ (x ∈ p.addrs ∧ (s.writePart keep a v ans p).byteAt x = byteOf v (x - a).toNat) := by
  unfold State.writePart
  split
  · split <;> exact .inl rfl
  · generalize p.addrs = l
    induction l generalizing s with
    | nil => exact .inl rfl
    | cons y rest ih =>
      simp only [List.foldl_cons]
      split
      · rcases ih (State.wf_writeBusByte h ans y (byteOf v (y - a).toNat)) with e | ⟨hx, e⟩
        · rcases State.byteAt_writeBusByte h ans y (byteOf v (y - a).toNat) x with e' | ⟨hxy, e'⟩
          · exact .inl (e.trans e')
          · subst hxy
            exact .inr ⟨by simp, e.trans e'⟩
        · exact .inr ⟨by simp [hx], e⟩
      · rcases ih h with e | ⟨hx, e⟩
        · exact .inl e
        · exact .inr ⟨by simp [hx], e⟩

theorem State.byteAt_writeParts {s : State} (h : Memory.wf s.mem = true) (keep : Word → Bool) (a v : Word)
    (ps : List Part) (x : Word) :
    (s.writeParts keep a v ps).byteAt x = s.byteAt x
      ∨ (x ∈ ps.flatMap Part.addrs ∧ (s.writeParts keep a v ps).byteAt x = byteOf v (x - a).toNat) := by
  have hf : ∀ (l : List Part) (t : State), Memory.wf t.mem = true →
      (l.foldl (fun t p => t.writePart keep a v (s.writeAnswer p) p) t).byteAt x = t.byteAt x
        ∨ (x ∈ l.flatMap Part.addrs
          ∧ (l.foldl (fun t p => t.writePart keep a v (s.writeAnswer p) p) t).byteAt x = byteOf v (x - a).toNat) := by
    intro l
    induction l with
    | nil => intro t _; exact .inl rfl
    | cons p rest ih =>
      intro t ht
      rw [List.foldl_cons]
      rcases ih _ ((State.writePart_bus keep a v (s.writeAnswer p) p).2 ht) with e | ⟨hx, e⟩
      · rcases State.byteAt_writePart ht keep a v (s.writeAnswer p) p x with e' | ⟨hx, e'⟩
        · exact .inl (e.trans e')
        · exact .inr ⟨by simp [hx], e.trans e'⟩
      · exact .inr ⟨by rw [List.flatMap_cons]; exact List.mem_append_right _ hx, e⟩
  exact hf ps s h

/-- The parts of a write that plain memory alone answers touch neither the CLINT nor a device. -/
theorem State.writeParts_memory {s : State} (keep : Word → Bool) (a v : Word) {ps : List Part}
    (hm : ∀ p ∈ ps, s.writeAnswer p = .memory) :
    (s.writeParts keep a v ps).msip = s.msip ∧ (s.writeParts keep a v ps).mtimecmp = s.mtimecmp
      ∧ (s.writeParts keep a v ps).mtime = s.mtime ∧ (s.writeParts keep a v ps).device = s.device := by
  have hbyte : ∀ (l : List Word) (t : State),
      (l.foldl (fun t x => if keep x then t.writeBusByte .memory x (byteOf v (x - a).toNat) else t) t)
        = { t with
            mem := (l.foldl (fun t x => if keep x then t.writeBusByte .memory x (byteOf v (x - a).toNat) else t) t).mem
            stale :=
              (l.foldl (fun t x => if keep x then t.writeBusByte .memory x (byteOf v (x - a).toNat) else t) t).stale } := by
    intro l
    induction l with
    | nil => intro t; rfl
    | cons x rest ih =>
      intro t
      rw [List.foldl_cons, ih]
      split <;> rfl
  have hf : ∀ (l : List Part), (∀ p ∈ l, s.writeAnswer p = .memory) → ∀ t : State,
      (l.foldl (fun t p => t.writePart keep a v (s.writeAnswer p) p) t).msip = t.msip
        ∧ (l.foldl (fun t p => t.writePart keep a v (s.writeAnswer p) p) t).mtimecmp = t.mtimecmp
        ∧ (l.foldl (fun t p => t.writePart keep a v (s.writeAnswer p) p) t).mtime = t.mtime
        ∧ (l.foldl (fun t p => t.writePart keep a v (s.writeAnswer p) p) t).device = t.device := by
    intro l
    induction l with
    | nil => intro _ t; exact ⟨rfl, rfl, rfl, rfl⟩
    | cons p rest ih =>
      intro hl t
      have h1 := ih (fun q hq => hl q (by simp [hq])) (t.writePart keep a v (s.writeAnswer p) p)
      have e : t.writePart keep a v (s.writeAnswer p) p
          = p.addrs.foldl (fun t x => if keep x then t.writeBusByte .memory x (byteOf v (x - a).toNat) else t) t := by
        rw [hl p (by simp)]
        rfl
      rw [List.foldl_cons]
      rw [e, hbyte] at h1 ⊢
      exact h1
  exact hf ps hm s

/-- R108, R111, 60_exceptions R356: a write faults at the first part that cannot be written. Each byte of its other parts
is old or new, those of faulting parts and all outside the access stand, and the CLINT and devices change only if a part
goes to one. -/
theorem State.memWrite_fault {s : State} {a v : Word} {w : Width} {pre post : List Part} {p : Part}
    (hm : Memory.wf s.mem = true) (h : splitAccess s.cfg.misalignedSplit a w = pre ++ p :: post)
    (hpre : ∀ q ∈ pre, ¬CannotWrite s q.addr) (hp : CannotWrite s p.addr) :
    ∃ t, s.memWrite a w v = .busError p.addr t ∧ OnlyBus s t
      ∧ (∀ x : Word, w.bytes ≤ (x - a).toNat → t.byteAt x = s.byteAt x)
      ∧ (∀ k : Nat, k < w.bytes → t.byteAt (a + BitVec.ofNat 32 k) = s.byteAt (a + BitVec.ofNat 32 k)
          ∨ t.byteAt (a + BitVec.ofNat 32 k) = v.extractLsb' (8 * k) 8)
      ∧ (∀ q ∈ p :: post, CannotWrite s q.addr →
          ∀ k : Nat, k < q.len → t.byteAt (q.addr + BitVec.ofNat 32 k) = s.byteAt (q.addr + BitVec.ofNat 32 k))
      ∧ ((∀ q ∈ pre ++ post, WritableByte s q.addr ∨ CannotWrite s q.addr) →
          t.msip = s.msip ∧ t.mtimecmp = s.mtimecmp ∧ t.mtime = s.mtime ∧ t.device = s.device) := by
  have h4 : w.bytes ≤ 4 := by cases w <;> decide
  have hok : ∀ q ∈ pre, (s.writeAnswer q).isOk = true := fun q hq => by
    by_contra hne
    exact hpre q hq (State.writeAnswer_isOk.1 (by simpa using hne))
  have hbad : (s.writeAnswer p).isOk = false := State.writeAnswer_isOk.2 hp
  have hs := find_split (ok := fun q => (s.writeAnswer q).isOk) (post := post) hok hbad
  refine ⟨s.writeParts (Config.freePartial s.draws) a v
    ((pre ++ p :: post).filter fun q => (s.writeAnswer q).isOk), ?_, (s.writeParts_bus _ _ _ _).1, ?_, ?_, ?_, ?_⟩
  · unfold State.memWrite
    rw [h, hs.1]
  · intro x hx
    rcases State.byteAt_writeParts hm (Config.freePartial s.draws) a v
      ((pre ++ p :: post).filter fun q => (s.writeAnswer q).isOk) x with e | ⟨hmem, -⟩
    · exact e
    · obtain ⟨q, hq, hxq⟩ := List.mem_flatMap.1 hmem
      have : x ∈ (splitAccess s.cfg.misalignedSplit a w).flatMap Part.addrs :=
        List.mem_flatMap.2 ⟨q, h ▸ (List.mem_filter.1 hq).1, hxq⟩
      rw [splitAccess_addrs] at this
      exact absurd ((mem_accessAddrs h4).1 this) (by omega)
  · intro k hk
    rcases State.byteAt_writeParts hm (Config.freePartial s.draws) a v
      ((pre ++ p :: post).filter fun q => (s.writeAnswer q).isOk) (a + BitVec.ofNat 32 k) with e | ⟨-, e⟩
    · exact .inl e
    · right
      rw [e]
      have : (a + BitVec.ofNat 32 k - a).toNat = k := by
        rw [BitVec.add_comm, BitVec.add_sub_cancel, BitVec.toNat_ofNat, Nat.mod_eq_of_lt (by omega)]
      rw [this]
      rfl
  · intro q hq hbadq k hk
    rcases State.byteAt_writeParts hm (Config.freePartial s.draws) a v
      ((pre ++ p :: post).filter fun q => (s.writeAnswer q).isOk) (q.addr + BitVec.ofNat 32 k) with e | ⟨hmem, -⟩
    · exact e
    · obtain ⟨r, hr, hxr⟩ := List.mem_flatMap.1 hmem
      obtain ⟨hr1, hr2⟩ := List.mem_filter.1 hr
      have hqm : q ∈ pre ++ p :: post := List.mem_append_right _ hq
      obtain ⟨l1, l2, hl⟩ := List.append_of_mem hqm
      have hne : r ≠ q := by
        rintro rfl
        rw [State.writeAnswer_isOk.2 hbadq] at hr2
        cases hr2
      have hr3 : r ∈ l1 ++ l2 := by
        rw [hl] at hr1
        rcases List.mem_append.1 hr1 with h' | h'
        · exact List.mem_append_left _ h'
        · rcases List.mem_cons.1 h' with h'' | h''
          · exact absurd h'' hne
          · exact List.mem_append_right _ h''
      have := splitAccess_disjoint (h.trans hl) hr3 hxr
      exact absurd (List.mem_map.2 ⟨k, List.mem_range.2 hk, rfl⟩) this
  · intro hall
    apply State.writeParts_memory
    intro q hq
    obtain ⟨hq1, hq2⟩ := List.mem_filter.1 hq
    have hne : q ≠ p := by
      rintro rfl
      rw [hbad] at hq2
      cases hq2
    have hq3 : q ∈ pre ++ post := by
      rcases List.mem_append.1 hq1 with h' | h'
      · exact List.mem_append_left _ h'
      · rcases List.mem_cons.1 h' with h'' | h''
        · exact absurd h'' hne
        · exact List.mem_append_right _ h''
    rcases hall q hq3 with h' | h'
    · exact State.writeAnswer_memory h'
    · rw [State.writeAnswer_isOk.2 h'] at hq2
      cases hq2

end Sys2Proof.Machine
end

