-- ==== Sys2Proof/Laws/Ops.lean ====
section
/-! SUPPORT. What each shared operation can answer, said once: if it answers a next state, then which. The lemmas
`…_next` take an answer apart; the others say when an operation answers. -/

namespace Sys2Proof.Machine

open Sys2Proof

theorem State.raise_next {s t : State} {e : Exc} {v : Word} (h : s.raise e v = .next t) :
    s.debugMode = false ∧ s.inNmi = false ∧ t = s.trap false e.code v s.pc := by
  unfold State.raise at h
  split at h
  · cases h
  · split at h
    · cases h
    · rename_i hd hn
      cases h
      exact ⟨by simpa using hd, by simpa using hn, rfl⟩

theorem State.raise_taken {s : State} (h : TakesExceptions s) (e : Exc) (v : Word) :
    s.raise e v = .next (s.trap false e.code v s.pc) := by
  simp [State.raise, h.1, h.2]

theorem State.checked_next {s t : State} {i : Instr} {k : Out} (h : s.checked i k = .next t) :
    k = .next t ∨ s.raise .illegalInstruction (encode i).toWord = .next t := by
  unfold State.checked at h
  split at h
  · exact .inl h
  · exact .inr h

theorem State.checked_ok {s : State} {i : Instr} (h : regsExist s.cfg.rv32e i = true) (k : Out) :
    s.checked i k = k := by
  simp [State.checked, h]

theorem State.checked_missing {s : State} {i : Instr} (h : regsExist s.cfg.rv32e i = false) (k : Out) :
    s.checked i k = s.raise .illegalInstruction (encode i).toWord := by
  simp [State.checked, h]

/-- An instruction's registers exist exactly when each one it uses does (44_rv32e R261). -/
theorem regsExist_iff {s : State} {i : Instr} :
    regsExist s.cfg.rv32e i = true ↔ ∀ r ∈ usedRegs i, RegExists s r := by
  have bit : ∀ r : Reg, r.getLsbD 4 = false ↔ r.toNat < 16 := by decide
  unfold regsExist RegExists
  cases h : s.cfg.rv32e with
  | false => simp
  | true =>
    simp only [Bool.not_true, Bool.false_or, List.all_eq_true, Bool.not_eq_true', Bool.true_eq_false,
      false_or]
    exact ⟨fun hh r hr => (bit r).1 (hh r hr), fun hh r hr => (bit r).2 (hh r hr)⟩

theorem State.load_next {s t : State} {i : Instr} {n ea : Word} {rd : Reg} {w : Width} {ext : Word → Word}
    (h : s.load i n rd ea w ext = .next t) :
    (∃ (u : State) (v : Word), u = { s with device := u.device } ∧ t = (u.setReg rd (ext v)).retire (s.pc + n))
      ∨ (∃ (u : State) (e : Exc) (v : Word), u = { s with device := u.device } ∧ u.raise e v = .next t) := by
  rcases State.checked_next h with h | h
  · split at h
    · rename_i v u hu
      cases h
      exact .inl ⟨u, v, State.memRead_value hu, rfl⟩
    · rename_i addr u hu
      exact .inr ⟨u, _, _, State.memRead_busError hu, h⟩
  · exact .inr ⟨s, _, _, rfl, h⟩

theorem State.store_next {s t : State} {i : Instr} {n ea v : Word} {w : Width} (h : s.store i n ea w v = .next t) :
    (∃ u, OnlyBus s u ∧ (Memory.wf s.mem = true → Memory.wf u.mem = true) ∧ t = u.retire (s.pc + n))
      ∨ (∃ u e x, OnlyBus s u ∧ (Memory.wf s.mem = true → Memory.wf u.mem = true) ∧ u.raise e x = .next t) := by
  rcases State.checked_next h with h | h
  · split at h
    · rename_i u hu
      cases h
      have := State.memWrite_done hu
      refine .inl ⟨u, this.1, this.2, ?_⟩
      rw [this.1]
    · rename_i u hu
      have := State.memWrite_busError hu
      exact .inr ⟨u, _, _, this.1, this.2, h⟩
  · exact .inr ⟨s, _, _, OnlyBus.refl s, id, h⟩

theorem State.csrAccess_next {s t : State} {i : Instr} {rd : Reg} {a : CsrAddr} {writes : Bool} {new : Word → Word}
    (h : s.csrAccess i rd a writes new = .next t) :
    (∃ c, csrOf a = some c ∧ s.csrDenied a writes = false ∧
      t = (State.setReg (if writes then s.writeCsr c (new (s.readCsr c)) else s) rd (s.readCsr c)).retireCsr
        (s.pc + 4#32) (if writes then some a else none)) ∨ (∃ e v, s.raise e v = .next t) := by
  rcases State.checked_next h with h | h
  · split at h
    · exact .inr ⟨_, _, h⟩
    · rename_i c hc
      split at h
      · exact .inr ⟨_, _, h⟩
      · rename_i hd
        cases h
        exact .inl ⟨c, hc, by simpa using hd, rfl⟩
  · exact .inr ⟨_, _, h⟩

theorem State.breakpoint_next {s t : State} (h : s.breakpoint = .next t) :
    (s.debugMode = false ∧ t = { s.enterDebug .ebreak s.pc with log := StepLog.empty })
      ∨ s.raise .breakpoint 0#32 = .next t := by
  unfold State.breakpoint at h
  split at h
  · rename_i hc
    cases h
    simp only [State.ebreakEntersDebug, Bool.and_eq_true, Bool.not_eq_true'] at hc
    exact .inl ⟨hc.1, rfl⟩
  · exact .inr h

/-- What `raise` leaves is a trap as the statements describe it (60_exceptions R365, R367). -/
theorem State.trap_effect (s : State) (i : Bool) (c : Nat) (hc : c < 2 ^ 31) (v e : Word) :
    TrapEffect i c v e s (s.trap i c v e) := by
  have hcode : (BitVec.ofNat 32 c).getLsbD 31 = false := by
    rw [BitVec.getLsbD_ofNat, Nat.testBit_lt_two_pow hc]
    simp
  refine
    { mepc := rfl, interruptBit := ?_, codeField := ?_, stated := rfl, mtval := rfl, mpie := rfl, mie := rfl,
      mpp := rfl, mprv := rfl, tw := rfl, priv := rfl, awake := rfl, pc := ?_, notRetired := rfl,
      regs := fun _ => rfl, bytes := fun _ => rfl, frame := rfl }
  · have hcode' : (BitVec.ofNat 32 c)[31] = false := hcode
    simp only [State.trap_mcause, causeWord]
    cases i <;> simp [hcode']
  · simp only [State.trap_mcause, causeWord]
    have : ∀ b : Word, b.extractLsb' 0 31 = 0#31 → (b ||| BitVec.ofNat 32 c).extractLsb' 0 31 = BitVec.ofNat 31 c := by
      intro b hb
      apply BitVec.eq_of_getLsbD_eq
      intro k hk
      have hbk : b.getLsbD k = false := by
        have := congrArg (fun x => x.getLsbD k) hb
        simpa [hk] using this
      rw [BitVec.getLsbD_extractLsb', BitVec.getLsbD_or, Nat.zero_add, hbk, BitVec.getLsbD_ofNat, BitVec.getLsbD_ofNat]
      simp [hk, show k < 32 by omega]
    cases i
    · rw [show (if false = true then (0x80000000#32) else 0#32) = 0#32 from rfl, this 0#32 (by decide),
        BitVec.toNat_ofNat, Nat.mod_eq_of_lt hc]
    · rw [show (if true = true then (0x80000000#32) else 0#32) = 0x80000000#32 from rfl,
        this 0x80000000#32 (by decide), BitVec.toNat_ofNat, Nat.mod_eq_of_lt hc]
  · have hbase : (s.mtvec &&& 0xFFFFFFFC#32).toNat = 4 * (s.mtvec.toNat / 4) := by
      have e : s.mtvec &&& 0xFFFFFFFC#32 = (s.mtvec >>> 2) <<< 2 := by
        apply BitVec.eq_of_getLsbD_eq
        intro k hk
        interval_cases k <;> simp
      rw [e, BitVec.toNat_shiftLeft, BitVec.toNat_ushiftRight, Nat.shiftRight_eq_div_pow, Nat.shiftLeft_eq]
      have := s.mtvec.isLt
      omega
    have hmode : (s.mtvec.extractLsb' 0 2 = 1#2) ↔ s.mtvec.toNat % 4 = 1 := by
      rw [← BitVec.toNat_inj, BitVec.extractLsb'_toNat]
      simp
    have hlt := s.mtvec.isLt
    simp only [State.trap_pc, trapVector, hmode]
    split
    · rw [BitVec.toNat_add, hbase, BitVec.toNat_ofNat]
      omega
    · rw [hbase]
      omega

/-! ### When an operation answers, and what -/

theorem State.raise_effect {s : State} (h : TakesExceptions s) (e : Exc) (v : Word) :
    ∃ t, s.raise e v = .next t ∧ TrapEffect false e.code v s.pc s t :=
  ⟨_, State.raise_taken h e v, State.trap_effect s false e.code (by cases e <;> decide) v s.pc⟩

theorem State.enterDebug_effect (s : State) (c : DebugCause) (r : Word) :
    DebugEntry c.code.toNat r s (s.enterDebug c r) where
  debugMode := rfl
  priv := rfl
  pc := rfl
  dpc := rfl
  awake := rfl
  dcsr := by cases c <;> rfl
  regs := fun _ => rfl
  bytes := fun _ => rfl
  frame := rfl

/-- A register write that retires, as the statements describe it. -/
theorem RegEffect.of_setReg (s : State) (rd : Reg) (v npc : Word) :
    RegEffect rd v npc s ((s.setReg rd v).retire npc) where
  regs := fun r => by rw [State.retire_reg, State.reg_setReg]
  pc := rfl
  retired := rfl
  frame := by
    unfold OnlyRegs State.setReg
    split <;> rfl
  bytes := fun a => by rw [State.retire_byteAt, State.setReg_byteAt]

theorem PcEffect.of_retire (s : State) (npc : Word) : PcEffect npc s (s.retire npc) where
  regs := fun _ => rfl
  pc := rfl
  retired := rfl
  frame := rfl
  bytes := fun _ => rfl

theorem State.writeBack_effect {s : State} {i : Instr} (h : ∀ r ∈ usedRegs i, RegExists s r) (n : Word) (rd : Reg)
    (v : Word) : ∃ t, s.writeBack i n rd v = .next t ∧ RegEffect rd v (s.pc + n) s t :=
  ⟨_, State.checked_ok (regsExist_iff.2 h) _, RegEffect.of_setReg s rd v _⟩

theorem State.advance_effect {s : State} {i : Instr} (h : ∀ r ∈ usedRegs i, RegExists s r) (n : Word) :
    ∃ t, s.advance i n = .next t ∧ PcEffect (s.pc + n) s t :=
  ⟨_, State.checked_ok (regsExist_iff.2 h) _, PcEffect.of_retire s _⟩

theorem State.jump_effect {s : State} {i : Instr} (h : ∀ r ∈ usedRegs i, RegExists s r) (n : Word) (rd : Reg)
    (target : Word) : ∃ t, s.jump i n rd target = .next t ∧ RegEffect rd (s.pc + n) target s t :=
  ⟨_, State.checked_ok (regsExist_iff.2 h) _, RegEffect.of_setReg s rd _ _⟩

theorem State.branch_effect {s : State} {i : Instr} (h : ∀ r ∈ usedRegs i, RegExists s r) (n : Word) (c : Bool)
    (offset : Word) :
    ∃ t, s.branch i n c offset = .next t ∧ PcEffect (if c then s.pc + offset else s.pc + n) s t :=
  ⟨_, State.checked_ok (regsExist_iff.2 h) _, PcEffect.of_retire s _⟩

theorem State.load_effect {s : State} {i : Instr} (h : ∀ r ∈ usedRegs i, RegExists s r) (n : Word) (rd : Reg)
    {ea : Word} {w : Width} (hr : Readable s ea w.bytes) (ext : Word → Word) :
    ∃ t, s.load i n rd ea w ext = .next t
      ∧ RegEffect rd (ext (BitVec.ofNat 32 (s.bytesValue ea w.bytes))) (s.pc + n) s t := by
  refine ⟨_, ?_, RegEffect.of_setReg s rd _ _⟩
  unfold State.load
  rw [State.checked_ok (regsExist_iff.2 h), State.memRead_plain hr]

theorem State.store_effect {s : State} {i : Instr} (h : ∀ r ∈ usedRegs i, RegExists s r) (hm : Memory.wf s.mem = true)
    (n : Word) {ea v : Word} {w : Width} (hw : Writable s ea w.bytes) :
    ∃ t, s.store i n ea w v = .next t ∧ StoreEffect ea w.bytes v (s.pc + n) s t := by
  have hn : w.bytes ≤ 4 := by cases w <;> decide
  have hf := State.storeBytes_frame s ea v (accessAddrs ea w.bytes)
  have hreg : ∀ r, (s.storeBytes ea v (accessAddrs ea w.bytes)).reg r = s.reg r := fun r => by rw [hf]; rfl
  refine ⟨(s.storeBytes ea v (accessAddrs ea w.bytes)).retire (s.pc + n), ?_, ?_⟩
  · unfold State.store
    rw [State.checked_ok (regsExist_iff.2 h), State.memWrite_plain hw]
  · refine { stored := ?_, otherBytes := ?_, regs := hreg, pc := rfl, retired := rfl, frame := ?_ }
    · intro k hk
      have hsub : (ea + BitVec.ofNat 32 k - ea).toNat = k := by
        rw [BitVec.add_comm, BitVec.add_sub_cancel, BitVec.toNat_ofNat]
        omega
      rw [State.retire_byteAt, State.byteAt_storeBytes_mem hm _ _ _ ((mem_accessAddrs hn).2 (by omega)), hsub]
      rfl
    · intro a ha
      rw [State.retire_byteAt, State.byteAt_storeBytes_other]
      intro hmem
      have := (mem_accessAddrs hn).1 hmem
      omega
    · unfold OnlyMemory State.retire
      rw [hf]

/-- A load one of whose parts faults, as the statements describe it. -/
theorem State.load_fault {s : State} {i : Instr} (h : ∀ r ∈ usedRegs i, RegExists s r) (hx : TakesExceptions s)
    (n : Word) (rd : Reg) {ea : Word} {w : Width} (ext : Word → Word) {pre post : List Part} {p : Part}
    (hs : splitAccess s.cfg.misalignedSplit ea w = pre ++ p :: post) (hpre : ∀ q ∈ pre, ¬CannotRead s q.addr)
    (hp : CannotRead s p.addr) :
    ∃ t, s.load i n rd ea w ext = .next t
      ∧ TrapEffect false 5 p.addr s.pc
        { s with device := ((pre.filter fun q => deviceAt s q.addr).map Part.asRead).reverse ++ s.device } t := by
  refine ⟨_, ?_, State.trap_effect _ false 5 (by decide) p.addr s.pc⟩
  unfold State.load
  rw [State.checked_ok (regsExist_iff.2 h), State.memRead_fault hs hpre hp]
  exact State.raise_taken
    (s := { s with device := ((pre.filter fun q => deviceAt s q.addr).map Part.asRead).reverse ++ s.device }) hx
    .loadAccessFault p.addr

/-- A load that devices answer, as the statements describe it. -/
theorem State.load_device {s : State} {i : Instr} (h : ∀ r ∈ usedRegs i, RegExists s r) (n : Word) (rd : Reg)
    {ea : Word} {w : Width} (ext : Word → Word)
    (hd : ∀ p ∈ splitAccess s.cfg.misalignedSplit ea w, deviceAt s p.addr = true ∧ ¬CannotRead s p.addr) :
    ∃ t, s.load i n rd ea w ext = .next t
      ∧ t.device = ((splitAccess s.cfg.misalignedSplit ea w).map Part.asRead).reverse ++ s.device
      ∧ RegEffect rd (ext (BitVec.ofNat 32 (s.deviceValue ea w.bytes))) (s.pc + n) { s with device := t.device } t := by
  refine ⟨State.retire (State.setReg
    { s with device := ((splitAccess s.cfg.misalignedSplit ea w).map Part.asRead).reverse ++ s.device } rd
      (ext (BitVec.ofNat 32 (s.deviceValue ea w.bytes)))) (s.pc + n), ?_, by simp, ?_⟩
  · unfold State.load
    rw [State.checked_ok (regsExist_iff.2 h), State.memRead_device hd]
  · simp only [State.retire_device, State.setReg_device]
    exact RegEffect.of_setReg _ rd _ _

/-- A store that devices answer, as the statements describe it. -/
theorem State.store_device {s : State} {i : Instr} (h : ∀ r ∈ usedRegs i, RegExists s r) (n : Word) {ea v : Word}
    {w : Width}
    (hd : ∀ p ∈ splitAccess s.cfg.misalignedSplit ea w, deviceAt s p.addr = true ∧ ¬CannotWrite s p.addr) :
    ∃ t, s.store i n ea w v = .next t
      ∧ t.device = ((splitAccess s.cfg.misalignedSplit ea w).map (Part.asWrite ea v)).reverse ++ s.device
      ∧ PcEffect (s.pc + n) { s with device := t.device } t := by
  refine ⟨State.retire
    { s with device := ((splitAccess s.cfg.misalignedSplit ea w).map (Part.asWrite ea v)).reverse ++ s.device }
      (s.pc + n), ?_, rfl, PcEffect.of_retire _ _⟩
  unfold State.store
  rw [State.checked_ok (regsExist_iff.2 h), State.memWrite_device hd]

/-- A store one of whose parts faults: the trap, over what the other parts may have left (`memWrite_fault`). -/
theorem State.store_fault {s u : State} {i : Instr} (h : ∀ r ∈ usedRegs i, RegExists s r) (hx : TakesExceptions s)
    (n : Word) {ea v addr : Word} {w : Width} (hw : s.memWrite ea w v = .busError addr u) :
    s.store i n ea w v = .next (u.trap false 7 addr s.pc) ∧ TrapEffect false 7 addr s.pc u (u.trap false 7 addr s.pc) := by
  have hb := (State.memWrite_busError hw).1
  have hx' : TakesExceptions u := by
    rw [hb]
    exact hx
  have hpc : u.pc = s.pc := by rw [hb]
  refine ⟨?_, State.trap_effect u false 7 (by decide) addr s.pc⟩
  unfold State.store
  rw [State.checked_ok (regsExist_iff.2 h), hw]
  show u.raise .storeAccessFault addr = _
  rw [State.raise_taken hx', hpc]
  rfl

end Sys2Proof.Machine
end

