-- ==== Sys2Proof/Laws/Csr.lean ====
section
/-! SUPPORT. CSR accesses: when one is allowed (10_state R31), what a write can touch, and what the access operation of
the six Zicsr instructions answers (47_zicsr R330, R331). -/

namespace Sys2Proof.Machine

open Sys2Proof

/-- The access check is the rule's, bit fields read as numbers. -/
theorem State.csrDenied_iff {s : State} {a : CsrAddr} {w : Bool} :
    s.csrDenied a w = false ↔ CsrAllowed s a w := by
  have low : a.extractLsb' 8 2 = 0#2 ↔ a.toNat / 256 % 4 = 0 := by
    rw [← BitVec.toNat_inj, BitVec.extractLsb'_toNat]
    simp [Nat.shiftRight_eq_div_pow]
  have ro : a.extractLsb' 10 2 = 3#2 ↔ a.toNat / 1024 % 4 = 3 := by
    rw [← BitVec.toNat_inj, BitVec.extractLsb'_toNat]
    simp [Nat.shiftRight_eq_div_pow]
  have hm : s.priv = .M ↔ s.priv ≠ .U := by cases s.priv <;> simp
  unfold CsrAllowed
  rw [hm, ← low]
  simp only [State.csrDenied, isDebugCsr, isUserCounter, Bool.or_eq_false_iff, Bool.and_eq_false_iff,
    decide_eq_false_iff_not, Bool.not_eq_false', ro, ne_eq, not_not, and_assoc, not_le]
  refine and_congr Iff.rfl (and_congr ?_ (and_congr ?_ ?_))
  · cases w <;> simp
  · tauto
  · tauto

/-- A write to a CSR touches no general register, no memory and nothing of the step's own. -/
theorem State.writeCsr_frame (s : State) (c : Csr) (w : Word) :
    (s.writeCsr c w).regs = s.regs ∧ (s.writeCsr c w).mem = s.mem ∧ (s.writeCsr c w).pc = s.pc
      ∧ (s.writeCsr c w).priv = s.priv ∧ (s.writeCsr c w).debugMode = s.debugMode ∧ (s.writeCsr c w).cfg = s.cfg := by
  cases c <;> simp only [State.writeCsr, State.setTrigger, State.setHpm]
  all_goals try split
  all_goals simp only [and_self]

theorem State.writeCsr_reg (s : State) (c : Csr) (w : Word) (r : Reg) : (s.writeCsr c w).reg r = s.reg r := by
  unfold State.reg
  rw [(s.writeCsr_frame c w).1]

theorem State.writeCsr_byteAt (s : State) (c : Csr) (w : Word) (a : Word) : (s.writeCsr c w).byteAt a = s.byteAt a := by
  unfold State.byteAt
  rw [(s.writeCsr_frame c w).2.1]

/-- An allowed access to an implemented register completes, as the statements describe it. -/
theorem State.csrAccess_effect {s : State} {i : Instr} {rd : Reg} {a : CsrAddr} {w : Bool} {f : Word → Word} {c : Csr}
    (hc : csrOf a = some c) (hu : ∀ r ∈ usedRegs i, RegExists s r) (ha : CsrAllowed s a w) :
    ∃ t, s.csrAccess i rd a w f = .next t
      ∧ CsrEffect c a rd (if w then some (f (s.readCsr c)) else none) s t := by
  refine ⟨State.retireCsr (State.setReg (if w then s.writeCsr c (f (s.readCsr c)) else s) rd (s.readCsr c))
    (s.pc + 4#32) (if w then some a else none), ?_, ?_⟩
  · rw [State.csrAccess, State.checked_ok (regsExist_iff.2 hu), hc]
    simp only [State.csrDenied_iff.2 ha, Bool.false_eq_true, if_false]
  · cases w
    · refine ⟨fun r => ?_, rfl, rfl, ?_, fun x => ?_⟩
      · show (s.setReg rd _).reg r = _
        rw [State.reg_setReg]
      · simp only [Bool.false_eq_true, if_false, State.setReg, State.retireCsr]
        split <;> rfl
      · show (s.setReg rd _).byteAt x = _
        rw [State.setReg_byteAt]
    · refine ⟨fun r => ?_, rfl, rfl, ?_, fun x => ?_⟩
      · show ((s.writeCsr c _).setReg rd _).reg r = _
        rw [State.reg_setReg, State.writeCsr_reg]
      · simp only [if_true, State.setReg, State.retireCsr]
        split <;> rfl
      · show ((s.writeCsr c _).setReg rd _).byteAt x = _
        rw [State.setReg_byteAt, State.writeCsr_byteAt]

/-- An access to no register, or one the checks refuse, raises IllegalInstruction. -/
theorem State.csrAccess_denied {s : State} {i : Instr} {rd : Reg} {a : CsrAddr} {w : Bool} {f : Word → Word}
    (hu : ∀ r ∈ usedRegs i, RegExists s r) (h : csrOf a = none ∨ ¬CsrAllowed s a w) :
    s.csrAccess i rd a w f = s.raise .illegalInstruction (encode i).toWord := by
  rw [State.csrAccess, State.checked_ok (regsExist_iff.2 hu)]
  split
  · rfl
  · rename_i c hc
    have hd : s.csrDenied a w = true := by
      rw [← Bool.not_eq_false, State.csrDenied_iff]
      exact h.resolve_left (by simp [hc])
    rw [if_pos hd]

end Sys2Proof.Machine
end

