-- ==== Sys2Proof/Laws/Encoding.lean ====
section
/-! SUPPORT. The fields of the encoder's words are the fields it was given, format by format (30_encoding R142, R144,
R159, R161). -/

namespace Sys2Proof

/-! ### Format R -/

theorem encR_fOpcode (f7 : BitVec 7) (rs2 : Reg) (rs1 : Reg) (f3 : BitVec 3) (rd : Reg) (op : BitVec 7) :
    fOpcode (f7 ++ rs2 ++ rs1 ++ f3 ++ rd ++ op) = op := by
  apply BitVec.eq_of_getLsbD_eq
  intro i hi
  simp only [fOpcode, BitVec.getLsbD_append, BitVec.getLsbD_extractLsb']
  interval_cases i <;> simp

theorem encR_fRd (f7 : BitVec 7) (rs2 : Reg) (rs1 : Reg) (f3 : BitVec 3) (rd : Reg) (op : BitVec 7) :
    fRd (f7 ++ rs2 ++ rs1 ++ f3 ++ rd ++ op) = rd := by
  apply BitVec.eq_of_getLsbD_eq
  intro i hi
  simp only [fRd, BitVec.getLsbD_append, BitVec.getLsbD_extractLsb']
  interval_cases i <;> simp

theorem encR_fFunct3 (f7 : BitVec 7) (rs2 : Reg) (rs1 : Reg) (f3 : BitVec 3) (rd : Reg) (op : BitVec 7) :
    fFunct3 (f7 ++ rs2 ++ rs1 ++ f3 ++ rd ++ op) = f3 := by
  apply BitVec.eq_of_getLsbD_eq
  intro i hi
  simp only [fFunct3, BitVec.getLsbD_append, BitVec.getLsbD_extractLsb']
  interval_cases i <;> simp

theorem encR_fRs1 (f7 : BitVec 7) (rs2 : Reg) (rs1 : Reg) (f3 : BitVec 3) (rd : Reg) (op : BitVec 7) :
    fRs1 (f7 ++ rs2 ++ rs1 ++ f3 ++ rd ++ op) = rs1 := by
  apply BitVec.eq_of_getLsbD_eq
  intro i hi
  simp only [fRs1, BitVec.getLsbD_append, BitVec.getLsbD_extractLsb']
  interval_cases i <;> simp

theorem encR_fRs2 (f7 : BitVec 7) (rs2 : Reg) (rs1 : Reg) (f3 : BitVec 3) (rd : Reg) (op : BitVec 7) :
    fRs2 (f7 ++ rs2 ++ rs1 ++ f3 ++ rd ++ op) = rs2 := by
  apply BitVec.eq_of_getLsbD_eq
  intro i hi
  simp only [fRs2, BitVec.getLsbD_append, BitVec.getLsbD_extractLsb']
  interval_cases i <;> simp

theorem encR_fFunct7 (f7 : BitVec 7) (rs2 : Reg) (rs1 : Reg) (f3 : BitVec 3) (rd : Reg) (op : BitVec 7) :
    fFunct7 (f7 ++ rs2 ++ rs1 ++ f3 ++ rd ++ op) = f7 := by
  apply BitVec.eq_of_getLsbD_eq
  intro i hi
  simp only [fFunct7, BitVec.getLsbD_append, BitVec.getLsbD_extractLsb']
  interval_cases i <;> simp

/-! ### Format I -/

theorem encI_fOpcode (imm : BitVec 12) (rs1 : Reg) (f3 : BitVec 3) (rd : Reg) (op : BitVec 7) :
    fOpcode (imm ++ rs1 ++ f3 ++ rd ++ op) = op := by
  apply BitVec.eq_of_getLsbD_eq
  intro i hi
  simp only [fOpcode, BitVec.getLsbD_append, BitVec.getLsbD_extractLsb']
  interval_cases i <;> simp

theorem encI_fRd (imm : BitVec 12) (rs1 : Reg) (f3 : BitVec 3) (rd : Reg) (op : BitVec 7) :
    fRd (imm ++ rs1 ++ f3 ++ rd ++ op) = rd := by
  apply BitVec.eq_of_getLsbD_eq
  intro i hi
  simp only [fRd, BitVec.getLsbD_append, BitVec.getLsbD_extractLsb']
  interval_cases i <;> simp

theorem encI_fFunct3 (imm : BitVec 12) (rs1 : Reg) (f3 : BitVec 3) (rd : Reg) (op : BitVec 7) :
    fFunct3 (imm ++ rs1 ++ f3 ++ rd ++ op) = f3 := by
  apply BitVec.eq_of_getLsbD_eq
  intro i hi
  simp only [fFunct3, BitVec.getLsbD_append, BitVec.getLsbD_extractLsb']
  interval_cases i <;> simp

theorem encI_fRs1 (imm : BitVec 12) (rs1 : Reg) (f3 : BitVec 3) (rd : Reg) (op : BitVec 7) :
    fRs1 (imm ++ rs1 ++ f3 ++ rd ++ op) = rs1 := by
  apply BitVec.eq_of_getLsbD_eq
  intro i hi
  simp only [fRs1, BitVec.getLsbD_append, BitVec.getLsbD_extractLsb']
  interval_cases i <;> simp

theorem encI_fImm12 (imm : BitVec 12) (rs1 : Reg) (f3 : BitVec 3) (rd : Reg) (op : BitVec 7) :
    fImm12 (imm ++ rs1 ++ f3 ++ rd ++ op) = imm := by
  apply BitVec.eq_of_getLsbD_eq
  intro i hi
  simp only [fImm12, BitVec.getLsbD_append, BitVec.getLsbD_extractLsb']
  interval_cases i <;> simp

/-! ### Format S -/

theorem encS_fOpcode (imm : BitVec 12) (rs2 : Reg) (rs1 : Reg) (f3 : BitVec 3) (op : BitVec 7) :
    fOpcode (imm.extractLsb' 5 7 ++ rs2 ++ rs1 ++ f3 ++ imm.extractLsb' 0 5 ++ op) = op := by
  apply BitVec.eq_of_getLsbD_eq
  intro i hi
  simp only [fOpcode, BitVec.getLsbD_append, BitVec.getLsbD_extractLsb']
  interval_cases i <;> simp

theorem encS_fFunct3 (imm : BitVec 12) (rs2 : Reg) (rs1 : Reg) (f3 : BitVec 3) (op : BitVec 7) :
    fFunct3 (imm.extractLsb' 5 7 ++ rs2 ++ rs1 ++ f3 ++ imm.extractLsb' 0 5 ++ op) = f3 := by
  apply BitVec.eq_of_getLsbD_eq
  intro i hi
  simp only [fFunct3, BitVec.getLsbD_append, BitVec.getLsbD_extractLsb']
  interval_cases i <;> simp

theorem encS_fRs1 (imm : BitVec 12) (rs2 : Reg) (rs1 : Reg) (f3 : BitVec 3) (op : BitVec 7) :
    fRs1 (imm.extractLsb' 5 7 ++ rs2 ++ rs1 ++ f3 ++ imm.extractLsb' 0 5 ++ op) = rs1 := by
  apply BitVec.eq_of_getLsbD_eq
  intro i hi
  simp only [fRs1, BitVec.getLsbD_append, BitVec.getLsbD_extractLsb']
  interval_cases i <;> simp

theorem encS_fRs2 (imm : BitVec 12) (rs2 : Reg) (rs1 : Reg) (f3 : BitVec 3) (op : BitVec 7) :
    fRs2 (imm.extractLsb' 5 7 ++ rs2 ++ rs1 ++ f3 ++ imm.extractLsb' 0 5 ++ op) = rs2 := by
  apply BitVec.eq_of_getLsbD_eq
  intro i hi
  simp only [fRs2, BitVec.getLsbD_append, BitVec.getLsbD_extractLsb']
  interval_cases i <;> simp

theorem encS_fImmS (imm : BitVec 12) (rs2 : Reg) (rs1 : Reg) (f3 : BitVec 3) (op : BitVec 7) :
    fImmS (imm.extractLsb' 5 7 ++ rs2 ++ rs1 ++ f3 ++ imm.extractLsb' 0 5 ++ op) = imm := by
  apply BitVec.eq_of_getLsbD_eq
  intro i hi
  simp only [fImmS, BitVec.getLsbD_append, BitVec.getLsbD_extractLsb']
  interval_cases i <;> simp

/-! ### Format B -/

theorem encB_fOpcode (imm : BitVec 12) (rs2 : Reg) (rs1 : Reg) (f3 : BitVec 3) (op : BitVec 7) :
    fOpcode (imm.extractLsb' 11 1 ++ imm.extractLsb' 4 6 ++ rs2 ++ rs1 ++ f3 ++ imm.extractLsb' 0 4
      ++ imm.extractLsb' 10 1 ++ op) = op := by
  apply BitVec.eq_of_getLsbD_eq
  intro i hi
  simp only [fOpcode, BitVec.getLsbD_append, BitVec.getLsbD_extractLsb']
  interval_cases i <;> simp

theorem encB_fFunct3 (imm : BitVec 12) (rs2 : Reg) (rs1 : Reg) (f3 : BitVec 3) (op : BitVec 7) :
    fFunct3 (imm.extractLsb' 11 1 ++ imm.extractLsb' 4 6 ++ rs2 ++ rs1 ++ f3 ++ imm.extractLsb' 0 4
      ++ imm.extractLsb' 10 1 ++ op) = f3 := by
  apply BitVec.eq_of_getLsbD_eq
  intro i hi
  simp only [fFunct3, BitVec.getLsbD_append, BitVec.getLsbD_extractLsb']
  interval_cases i <;> simp

theorem encB_fRs1 (imm : BitVec 12) (rs2 : Reg) (rs1 : Reg) (f3 : BitVec 3) (op : BitVec 7) :
    fRs1 (imm.extractLsb' 11 1 ++ imm.extractLsb' 4 6 ++ rs2 ++ rs1 ++ f3 ++ imm.extractLsb' 0 4
      ++ imm.extractLsb' 10 1 ++ op) = rs1 := by
  apply BitVec.eq_of_getLsbD_eq
  intro i hi
  simp only [fRs1, BitVec.getLsbD_append, BitVec.getLsbD_extractLsb']
  interval_cases i <;> simp

theorem encB_fRs2 (imm : BitVec 12) (rs2 : Reg) (rs1 : Reg) (f3 : BitVec 3) (op : BitVec 7) :
    fRs2 (imm.extractLsb' 11 1 ++ imm.extractLsb' 4 6 ++ rs2 ++ rs1 ++ f3 ++ imm.extractLsb' 0 4
      ++ imm.extractLsb' 10 1 ++ op) = rs2 := by
  apply BitVec.eq_of_getLsbD_eq
  intro i hi
  simp only [fRs2, BitVec.getLsbD_append, BitVec.getLsbD_extractLsb']
  interval_cases i <;> simp

theorem encB_fImmB (imm : BitVec 12) (rs2 : Reg) (rs1 : Reg) (f3 : BitVec 3) (op : BitVec 7) :
    fImmB (imm.extractLsb' 11 1 ++ imm.extractLsb' 4 6 ++ rs2 ++ rs1 ++ f3 ++ imm.extractLsb' 0 4
      ++ imm.extractLsb' 10 1 ++ op) = imm := by
  apply BitVec.eq_of_getLsbD_eq
  intro i hi
  simp only [fImmB, BitVec.getLsbD_append, BitVec.getLsbD_extractLsb']
  interval_cases i <;> simp

/-! ### Format U -/

theorem encU_fOpcode (imm : BitVec 20) (rd : Reg) (op : BitVec 7) :
    fOpcode (imm ++ rd ++ op) = op := by
  apply BitVec.eq_of_getLsbD_eq
  intro i hi
  simp only [fOpcode, BitVec.getLsbD_append, BitVec.getLsbD_extractLsb']
  interval_cases i <;> simp

theorem encU_fRd (imm : BitVec 20) (rd : Reg) (op : BitVec 7) :
    fRd (imm ++ rd ++ op) = rd := by
  apply BitVec.eq_of_getLsbD_eq
  intro i hi
  simp only [fRd, BitVec.getLsbD_append, BitVec.getLsbD_extractLsb']
  interval_cases i <;> simp

theorem encU_fImmU (imm : BitVec 20) (rd : Reg) (op : BitVec 7) :
    fImmU (imm ++ rd ++ op) = imm := by
  apply BitVec.eq_of_getLsbD_eq
  intro i hi
  simp only [fImmU, BitVec.getLsbD_append, BitVec.getLsbD_extractLsb']
  interval_cases i <;> simp

/-! ### Format J -/

theorem encJ_fOpcode (imm : BitVec 20) (rd : Reg) (op : BitVec 7) :
    fOpcode (imm.extractLsb' 19 1 ++ imm.extractLsb' 0 10 ++ imm.extractLsb' 10 1 ++ imm.extractLsb' 11 8 ++ rd ++ op) = op := by
  apply BitVec.eq_of_getLsbD_eq
  intro i hi
  simp only [fOpcode, BitVec.getLsbD_append, BitVec.getLsbD_extractLsb']
  interval_cases i <;> simp

theorem encJ_fRd (imm : BitVec 20) (rd : Reg) (op : BitVec 7) :
    fRd (imm.extractLsb' 19 1 ++ imm.extractLsb' 0 10 ++ imm.extractLsb' 10 1 ++ imm.extractLsb' 11 8 ++ rd ++ op) = rd := by
  apply BitVec.eq_of_getLsbD_eq
  intro i hi
  simp only [fRd, BitVec.getLsbD_append, BitVec.getLsbD_extractLsb']
  interval_cases i <;> simp

theorem encJ_fImmJ (imm : BitVec 20) (rd : Reg) (op : BitVec 7) :
    fImmJ (imm.extractLsb' 19 1 ++ imm.extractLsb' 0 10 ++ imm.extractLsb' 10 1 ++ imm.extractLsb' 11 8 ++ rd ++ op) = imm := by
  apply BitVec.eq_of_getLsbD_eq
  intro i hi
  simp only [fImmJ, BitVec.getLsbD_append, BitVec.getLsbD_extractLsb']
  interval_cases i <;> simp

/-! ### Format Fence -/

theorem encFence_fOpcode (fm : BitVec 4) (pred : BitVec 4) (succ : BitVec 4) (rs1 : Reg) (rd : Reg) :
    fOpcode (fm ++ pred ++ succ ++ rs1 ++ 0#3 ++ rd ++ 0x0F#7) = 0x0F#7 := by
  apply BitVec.eq_of_getLsbD_eq
  intro i hi
  simp only [fOpcode, BitVec.getLsbD_append, BitVec.getLsbD_extractLsb']
  interval_cases i <;> simp

theorem encFence_fFunct3 (fm : BitVec 4) (pred : BitVec 4) (succ : BitVec 4) (rs1 : Reg) (rd : Reg) :
    fFunct3 (fm ++ pred ++ succ ++ rs1 ++ 0#3 ++ rd ++ 0x0F#7) = 0#3 := by
  apply BitVec.eq_of_getLsbD_eq
  intro i hi
  simp only [fFunct3, BitVec.getLsbD_append, BitVec.getLsbD_extractLsb']
  interval_cases i <;> simp

theorem encFence_fFm (fm : BitVec 4) (pred : BitVec 4) (succ : BitVec 4) (rs1 : Reg) (rd : Reg) :
    fFm (fm ++ pred ++ succ ++ rs1 ++ 0#3 ++ rd ++ 0x0F#7) = fm := by
  apply BitVec.eq_of_getLsbD_eq
  intro i hi
  simp only [fFm, BitVec.getLsbD_append, BitVec.getLsbD_extractLsb']
  interval_cases i <;> simp

theorem encFence_fPred (fm : BitVec 4) (pred : BitVec 4) (succ : BitVec 4) (rs1 : Reg) (rd : Reg) :
    fPred (fm ++ pred ++ succ ++ rs1 ++ 0#3 ++ rd ++ 0x0F#7) = pred := by
  apply BitVec.eq_of_getLsbD_eq
  intro i hi
  simp only [fPred, BitVec.getLsbD_append, BitVec.getLsbD_extractLsb']
  interval_cases i <;> simp

theorem encFence_fSucc (fm : BitVec 4) (pred : BitVec 4) (succ : BitVec 4) (rs1 : Reg) (rd : Reg) :
    fSucc (fm ++ pred ++ succ ++ rs1 ++ 0#3 ++ rd ++ 0x0F#7) = succ := by
  apply BitVec.eq_of_getLsbD_eq
  intro i hi
  simp only [fSucc, BitVec.getLsbD_append, BitVec.getLsbD_extractLsb']
  interval_cases i <;> simp

theorem encFence_fRs1 (fm : BitVec 4) (pred : BitVec 4) (succ : BitVec 4) (rs1 : Reg) (rd : Reg) :
    fRs1 (fm ++ pred ++ succ ++ rs1 ++ 0#3 ++ rd ++ 0x0F#7) = rs1 := by
  apply BitVec.eq_of_getLsbD_eq
  intro i hi
  simp only [fRs1, BitVec.getLsbD_append, BitVec.getLsbD_extractLsb']
  interval_cases i <;> simp

theorem encFence_fRd (fm : BitVec 4) (pred : BitVec 4) (succ : BitVec 4) (rs1 : Reg) (rd : Reg) :
    fRd (fm ++ pred ++ succ ++ rs1 ++ 0#3 ++ rd ++ 0x0F#7) = rd := by
  apply BitVec.eq_of_getLsbD_eq
  intro i hi
  simp only [fRd, BitVec.getLsbD_append, BitVec.getLsbD_extractLsb']
  interval_cases i <;> simp

/-! ### Format CI -/

theorem encCI_cOp (f3 : BitVec 3) (imm : BitVec 6) (rd : Reg) (op : BitVec 2) :
    cOp (f3 ++ imm.extractLsb' 5 1 ++ rd ++ imm.extractLsb' 0 5 ++ op) = op := by
  apply BitVec.eq_of_getLsbD_eq
  intro i hi
  simp only [cOp, BitVec.getLsbD_append, BitVec.getLsbD_extractLsb']
  interval_cases i <;> simp

theorem encCI_cFunct3 (f3 : BitVec 3) (imm : BitVec 6) (rd : Reg) (op : BitVec 2) :
    cFunct3 (f3 ++ imm.extractLsb' 5 1 ++ rd ++ imm.extractLsb' 0 5 ++ op) = f3 := by
  apply BitVec.eq_of_getLsbD_eq
  intro i hi
  simp only [cFunct3, BitVec.getLsbD_append, BitVec.getLsbD_extractLsb']
  interval_cases i <;> simp

theorem encCI_cRd (f3 : BitVec 3) (imm : BitVec 6) (rd : Reg) (op : BitVec 2) :
    cRd (f3 ++ imm.extractLsb' 5 1 ++ rd ++ imm.extractLsb' 0 5 ++ op) = rd := by
  apply BitVec.eq_of_getLsbD_eq
  intro i hi
  simp only [cRd, BitVec.getLsbD_append, BitVec.getLsbD_extractLsb']
  interval_cases i <;> simp

theorem encCI_cImm6 (f3 : BitVec 3) (imm : BitVec 6) (rd : Reg) (op : BitVec 2) :
    cImm6 (f3 ++ imm.extractLsb' 5 1 ++ rd ++ imm.extractLsb' 0 5 ++ op) = imm := by
  apply BitVec.eq_of_getLsbD_eq
  intro i hi
  simp only [cImm6, BitVec.getLsbD_append, BitVec.getLsbD_extractLsb']
  interval_cases i <;> simp

/-! ### Format CR -/

theorem encCR_cOp (f3 : BitVec 3) (b12 : BitVec 1) (rd : Reg) (rs2 : Reg) (op : BitVec 2) :
    cOp (f3 ++ b12 ++ rd ++ rs2 ++ op) = op := by
  apply BitVec.eq_of_getLsbD_eq
  intro i hi
  simp only [cOp, BitVec.getLsbD_append, BitVec.getLsbD_extractLsb']
  interval_cases i <;> simp

theorem encCR_cFunct3 (f3 : BitVec 3) (b12 : BitVec 1) (rd : Reg) (rs2 : Reg) (op : BitVec 2) :
    cFunct3 (f3 ++ b12 ++ rd ++ rs2 ++ op) = f3 := by
  apply BitVec.eq_of_getLsbD_eq
  intro i hi
  simp only [cFunct3, BitVec.getLsbD_append, BitVec.getLsbD_extractLsb']
  interval_cases i <;> simp

theorem encCR_cBit12 (f3 : BitVec 3) (b12 : BitVec 1) (rd : Reg) (rs2 : Reg) (op : BitVec 2) :
    cBit12 (f3 ++ b12 ++ rd ++ rs2 ++ op) = b12 := by
  apply BitVec.eq_of_getLsbD_eq
  intro i hi
  simp only [cBit12, BitVec.getLsbD_append, BitVec.getLsbD_extractLsb']
  interval_cases i <;> simp

theorem encCR_cRd (f3 : BitVec 3) (b12 : BitVec 1) (rd : Reg) (rs2 : Reg) (op : BitVec 2) :
    cRd (f3 ++ b12 ++ rd ++ rs2 ++ op) = rd := by
  apply BitVec.eq_of_getLsbD_eq
  intro i hi
  simp only [cRd, BitVec.getLsbD_append, BitVec.getLsbD_extractLsb']
  interval_cases i <;> simp

theorem encCR_cRs2 (f3 : BitVec 3) (b12 : BitVec 1) (rd : Reg) (rs2 : Reg) (op : BitVec 2) :
    cRs2 (f3 ++ b12 ++ rd ++ rs2 ++ op) = rs2 := by
  apply BitVec.eq_of_getLsbD_eq
  intro i hi
  simp only [cRs2, BitVec.getLsbD_append, BitVec.getLsbD_extractLsb']
  interval_cases i <;> simp

theorem encCR_cShamt (f3 : BitVec 3) (b12 : BitVec 1) (rd : Reg) (rs2 : Reg) (op : BitVec 2) :
    cShamt (f3 ++ b12 ++ rd ++ rs2 ++ op) = rs2 := by
  apply BitVec.eq_of_getLsbD_eq
  intro i hi
  simp only [cShamt, BitVec.getLsbD_append, BitVec.getLsbD_extractLsb']
  interval_cases i <;> simp

/-! ### Format CLS -/

theorem encCLS_cOp (f3 : BitVec 3) (imm : BitVec 5) (rs1 : CReg) (r2 : CReg) :
    cOp (f3 ++ imm.extractLsb' 1 3 ++ rs1 ++ imm.extractLsb' 0 1 ++ imm.extractLsb' 4 1 ++ r2 ++ 0#2) = 0#2 := by
  apply BitVec.eq_of_getLsbD_eq
  intro i hi
  simp only [cOp, BitVec.getLsbD_append, BitVec.getLsbD_extractLsb']
  interval_cases i <;> simp

theorem encCLS_cFunct3 (f3 : BitVec 3) (imm : BitVec 5) (rs1 : CReg) (r2 : CReg) :
    cFunct3 (f3 ++ imm.extractLsb' 1 3 ++ rs1 ++ imm.extractLsb' 0 1 ++ imm.extractLsb' 4 1 ++ r2 ++ 0#2) = f3 := by
  apply BitVec.eq_of_getLsbD_eq
  intro i hi
  simp only [cFunct3, BitVec.getLsbD_append, BitVec.getLsbD_extractLsb']
  interval_cases i <;> simp

theorem encCLS_cRs1' (f3 : BitVec 3) (imm : BitVec 5) (rs1 : CReg) (r2 : CReg) :
    cRs1' (f3 ++ imm.extractLsb' 1 3 ++ rs1 ++ imm.extractLsb' 0 1 ++ imm.extractLsb' 4 1 ++ r2 ++ 0#2) = rs1 := by
  apply BitVec.eq_of_getLsbD_eq
  intro i hi
  simp only [cRs1', BitVec.getLsbD_append, BitVec.getLsbD_extractLsb']
  interval_cases i <;> simp

theorem encCLS_cRs2' (f3 : BitVec 3) (imm : BitVec 5) (rs1 : CReg) (r2 : CReg) :
    cRs2' (f3 ++ imm.extractLsb' 1 3 ++ rs1 ++ imm.extractLsb' 0 1 ++ imm.extractLsb' 4 1 ++ r2 ++ 0#2) = r2 := by
  apply BitVec.eq_of_getLsbD_eq
  intro i hi
  simp only [cRs2', BitVec.getLsbD_append, BitVec.getLsbD_extractLsb']
  interval_cases i <;> simp

theorem encCLS_cImmLw (f3 : BitVec 3) (imm : BitVec 5) (rs1 : CReg) (r2 : CReg) :
    cImmLw (f3 ++ imm.extractLsb' 1 3 ++ rs1 ++ imm.extractLsb' 0 1 ++ imm.extractLsb' 4 1 ++ r2 ++ 0#2) = imm := by
  apply BitVec.eq_of_getLsbD_eq
  intro i hi
  simp only [cImmLw, BitVec.getLsbD_append, BitVec.getLsbD_extractLsb']
  interval_cases i <;> simp

/-! ### Format CIW -/

theorem encCIW_cOp (imm : BitVec 8) (rd : CReg) :
    cOp (0#3 ++ imm.extractLsb' 2 2 ++ imm.extractLsb' 4 4 ++ imm.extractLsb' 0 1 ++ imm.extractLsb' 1 1 ++ rd ++ 0#2) = 0#2 := by
  apply BitVec.eq_of_getLsbD_eq
  intro i hi
  simp only [cOp, BitVec.getLsbD_append, BitVec.getLsbD_extractLsb']
  interval_cases i <;> simp

theorem encCIW_cFunct3 (imm : BitVec 8) (rd : CReg) :
    cFunct3 (0#3 ++ imm.extractLsb' 2 2 ++ imm.extractLsb' 4 4 ++ imm.extractLsb' 0 1 ++ imm.extractLsb' 1 1 ++ rd ++ 0#2) = 0#3 := by
  apply BitVec.eq_of_getLsbD_eq
  intro i hi
  simp only [cFunct3, BitVec.getLsbD_append, BitVec.getLsbD_extractLsb']
  interval_cases i <;> simp

theorem encCIW_cRs2' (imm : BitVec 8) (rd : CReg) :
    cRs2' (0#3 ++ imm.extractLsb' 2 2 ++ imm.extractLsb' 4 4 ++ imm.extractLsb' 0 1 ++ imm.extractLsb' 1 1 ++ rd ++ 0#2) = rd := by
  apply BitVec.eq_of_getLsbD_eq
  intro i hi
  simp only [cRs2', BitVec.getLsbD_append, BitVec.getLsbD_extractLsb']
  interval_cases i <;> simp

theorem encCIW_cImm4spn (imm : BitVec 8) (rd : CReg) :
    cImm4spn (0#3 ++ imm.extractLsb' 2 2 ++ imm.extractLsb' 4 4 ++ imm.extractLsb' 0 1 ++ imm.extractLsb' 1 1 ++ rd ++ 0#2) = imm := by
  apply BitVec.eq_of_getLsbD_eq
  intro i hi
  simp only [cImm4spn, BitVec.getLsbD_append, BitVec.getLsbD_extractLsb']
  interval_cases i <;> simp

/-! ### Format CBAlu -/

theorem encCBAlu_cOp (b12 : BitVec 1) (f2 : BitVec 2) (rd : CReg) (low : BitVec 5) :
    cOp (4#3 ++ b12 ++ f2 ++ rd ++ low ++ 1#2) = 1#2 := by
  apply BitVec.eq_of_getLsbD_eq
  intro i hi
  simp only [cOp, BitVec.getLsbD_append, BitVec.getLsbD_extractLsb']
  interval_cases i <;> simp

theorem encCBAlu_cFunct3 (b12 : BitVec 1) (f2 : BitVec 2) (rd : CReg) (low : BitVec 5) :
    cFunct3 (4#3 ++ b12 ++ f2 ++ rd ++ low ++ 1#2) = 4#3 := by
  apply BitVec.eq_of_getLsbD_eq
  intro i hi
  simp only [cFunct3, BitVec.getLsbD_append, BitVec.getLsbD_extractLsb']
  interval_cases i <;> simp

theorem encCBAlu_cBit12 (b12 : BitVec 1) (f2 : BitVec 2) (rd : CReg) (low : BitVec 5) :
    cBit12 (4#3 ++ b12 ++ f2 ++ rd ++ low ++ 1#2) = b12 := by
  apply BitVec.eq_of_getLsbD_eq
  intro i hi
  simp only [cBit12, BitVec.getLsbD_append, BitVec.getLsbD_extractLsb']
  interval_cases i <;> simp

theorem encCBAlu_cFunct2 (b12 : BitVec 1) (f2 : BitVec 2) (rd : CReg) (low : BitVec 5) :
    cFunct2 (4#3 ++ b12 ++ f2 ++ rd ++ low ++ 1#2) = f2 := by
  apply BitVec.eq_of_getLsbD_eq
  intro i hi
  simp only [cFunct2, BitVec.getLsbD_append, BitVec.getLsbD_extractLsb']
  interval_cases i <;> simp

theorem encCBAlu_cRs1' (b12 : BitVec 1) (f2 : BitVec 2) (rd : CReg) (low : BitVec 5) :
    cRs1' (4#3 ++ b12 ++ f2 ++ rd ++ low ++ 1#2) = rd := by
  apply BitVec.eq_of_getLsbD_eq
  intro i hi
  simp only [cRs1', BitVec.getLsbD_append, BitVec.getLsbD_extractLsb']
  interval_cases i <;> simp

theorem encCBAlu_cShamt (b12 : BitVec 1) (f2 : BitVec 2) (rd : CReg) (low : BitVec 5) :
    cShamt (4#3 ++ b12 ++ f2 ++ rd ++ low ++ 1#2) = low := by
  apply BitVec.eq_of_getLsbD_eq
  intro i hi
  simp only [cShamt, BitVec.getLsbD_append, BitVec.getLsbD_extractLsb']
  interval_cases i <;> simp

/-! ### Format CAndi -/

theorem encCAndi_cImm6 (imm : BitVec 6) (rd : CReg) :
    cImm6 (4#3 ++ imm.extractLsb' 5 1 ++ 2#2 ++ rd ++ imm.extractLsb' 0 5 ++ 1#2) = imm := by
  apply BitVec.eq_of_getLsbD_eq
  intro i hi
  simp only [cImm6, BitVec.getLsbD_append, BitVec.getLsbD_extractLsb']
  interval_cases i <;> simp

/-! ### Format CA -/

theorem encCA_cOp (f2 : BitVec 2) (rd : CReg) (rs2 : CReg) :
    cOp (4#3 ++ 0#1 ++ 3#2 ++ rd ++ f2 ++ rs2 ++ 1#2) = 1#2 := by
  apply BitVec.eq_of_getLsbD_eq
  intro i hi
  simp only [cOp, BitVec.getLsbD_append, BitVec.getLsbD_extractLsb']
  interval_cases i <;> simp

theorem encCA_cFunct3 (f2 : BitVec 2) (rd : CReg) (rs2 : CReg) :
    cFunct3 (4#3 ++ 0#1 ++ 3#2 ++ rd ++ f2 ++ rs2 ++ 1#2) = 4#3 := by
  apply BitVec.eq_of_getLsbD_eq
  intro i hi
  simp only [cFunct3, BitVec.getLsbD_append, BitVec.getLsbD_extractLsb']
  interval_cases i <;> simp

theorem encCA_cBit12 (f2 : BitVec 2) (rd : CReg) (rs2 : CReg) :
    cBit12 (4#3 ++ 0#1 ++ 3#2 ++ rd ++ f2 ++ rs2 ++ 1#2) = 0#1 := by
  apply BitVec.eq_of_getLsbD_eq
  intro i hi
  simp only [cBit12, BitVec.getLsbD_append, BitVec.getLsbD_extractLsb']
  interval_cases i <;> simp

theorem encCA_cFunct2 (f2 : BitVec 2) (rd : CReg) (rs2 : CReg) :
    cFunct2 (4#3 ++ 0#1 ++ 3#2 ++ rd ++ f2 ++ rs2 ++ 1#2) = 3#2 := by
  apply BitVec.eq_of_getLsbD_eq
  intro i hi
  simp only [cFunct2, BitVec.getLsbD_append, BitVec.getLsbD_extractLsb']
  interval_cases i <;> simp

theorem encCA_cFunct2' (f2 : BitVec 2) (rd : CReg) (rs2 : CReg) :
    cFunct2' (4#3 ++ 0#1 ++ 3#2 ++ rd ++ f2 ++ rs2 ++ 1#2) = f2 := by
  apply BitVec.eq_of_getLsbD_eq
  intro i hi
  simp only [cFunct2', BitVec.getLsbD_append, BitVec.getLsbD_extractLsb']
  interval_cases i <;> simp

theorem encCA_cRs1' (f2 : BitVec 2) (rd : CReg) (rs2 : CReg) :
    cRs1' (4#3 ++ 0#1 ++ 3#2 ++ rd ++ f2 ++ rs2 ++ 1#2) = rd := by
  apply BitVec.eq_of_getLsbD_eq
  intro i hi
  simp only [cRs1', BitVec.getLsbD_append, BitVec.getLsbD_extractLsb']
  interval_cases i <;> simp

theorem encCA_cRs2' (f2 : BitVec 2) (rd : CReg) (rs2 : CReg) :
    cRs2' (4#3 ++ 0#1 ++ 3#2 ++ rd ++ f2 ++ rs2 ++ 1#2) = rs2 := by
  apply BitVec.eq_of_getLsbD_eq
  intro i hi
  simp only [cRs2', BitVec.getLsbD_append, BitVec.getLsbD_extractLsb']
  interval_cases i <;> simp

/-! ### Format CJ -/

theorem encCJ_cOp (f3 : BitVec 3) (imm : BitVec 11) :
    cOp (f3 ++ imm.extractLsb' 10 1 ++ imm.extractLsb' 3 1 ++ imm.extractLsb' 7 2 ++ imm.extractLsb' 9 1
      ++ imm.extractLsb' 5 1 ++ imm.extractLsb' 6 1 ++ imm.extractLsb' 0 3 ++ imm.extractLsb' 4 1 ++ 1#2) = 1#2 := by
  apply BitVec.eq_of_getLsbD_eq
  intro i hi
  simp only [cOp, BitVec.getLsbD_append, BitVec.getLsbD_extractLsb']
  interval_cases i <;> simp

theorem encCJ_cFunct3 (f3 : BitVec 3) (imm : BitVec 11) :
    cFunct3 (f3 ++ imm.extractLsb' 10 1 ++ imm.extractLsb' 3 1 ++ imm.extractLsb' 7 2 ++ imm.extractLsb' 9 1
      ++ imm.extractLsb' 5 1 ++ imm.extractLsb' 6 1 ++ imm.extractLsb' 0 3 ++ imm.extractLsb' 4 1 ++ 1#2) = f3 := by
  apply BitVec.eq_of_getLsbD_eq
  intro i hi
  simp only [cFunct3, BitVec.getLsbD_append, BitVec.getLsbD_extractLsb']
  interval_cases i <;> simp

theorem encCJ_cImmJ (f3 : BitVec 3) (imm : BitVec 11) :
    cImmJ (f3 ++ imm.extractLsb' 10 1 ++ imm.extractLsb' 3 1 ++ imm.extractLsb' 7 2 ++ imm.extractLsb' 9 1
      ++ imm.extractLsb' 5 1 ++ imm.extractLsb' 6 1 ++ imm.extractLsb' 0 3 ++ imm.extractLsb' 4 1 ++ 1#2) = imm := by
  apply BitVec.eq_of_getLsbD_eq
  intro i hi
  simp only [cImmJ, BitVec.getLsbD_append, BitVec.getLsbD_extractLsb']
  interval_cases i <;> simp

/-! ### Format CB -/

theorem encCB_cOp (f3 : BitVec 3) (rs1 : CReg) (imm : BitVec 8) :
    cOp (f3 ++ imm.extractLsb' 7 1 ++ imm.extractLsb' 2 2 ++ rs1 ++ imm.extractLsb' 5 2 ++ imm.extractLsb' 0 2
      ++ imm.extractLsb' 4 1 ++ 1#2) = 1#2 := by
  apply BitVec.eq_of_getLsbD_eq
  intro i hi
  simp only [cOp, BitVec.getLsbD_append, BitVec.getLsbD_extractLsb']
  interval_cases i <;> simp

theorem encCB_cFunct3 (f3 : BitVec 3) (rs1 : CReg) (imm : BitVec 8) :
    cFunct3 (f3 ++ imm.extractLsb' 7 1 ++ imm.extractLsb' 2 2 ++ rs1 ++ imm.extractLsb' 5 2 ++ imm.extractLsb' 0 2
      ++ imm.extractLsb' 4 1 ++ 1#2) = f3 := by
  apply BitVec.eq_of_getLsbD_eq
  intro i hi
  simp only [cFunct3, BitVec.getLsbD_append, BitVec.getLsbD_extractLsb']
  interval_cases i <;> simp

theorem encCB_cRs1' (f3 : BitVec 3) (rs1 : CReg) (imm : BitVec 8) :
    cRs1' (f3 ++ imm.extractLsb' 7 1 ++ imm.extractLsb' 2 2 ++ rs1 ++ imm.extractLsb' 5 2 ++ imm.extractLsb' 0 2
      ++ imm.extractLsb' 4 1 ++ 1#2) = rs1 := by
  apply BitVec.eq_of_getLsbD_eq
  intro i hi
  simp only [cRs1', BitVec.getLsbD_append, BitVec.getLsbD_extractLsb']
  interval_cases i <;> simp

theorem encCB_cImmB (f3 : BitVec 3) (rs1 : CReg) (imm : BitVec 8) :
    cImmB (f3 ++ imm.extractLsb' 7 1 ++ imm.extractLsb' 2 2 ++ rs1 ++ imm.extractLsb' 5 2 ++ imm.extractLsb' 0 2
      ++ imm.extractLsb' 4 1 ++ 1#2) = imm := by
  apply BitVec.eq_of_getLsbD_eq
  intro i hi
  simp only [cImmB, BitVec.getLsbD_append, BitVec.getLsbD_extractLsb']
  interval_cases i <;> simp

/-! ### Format C16sp -/

theorem encC16sp_cOp (imm : BitVec 6) :
    cOp (3#3 ++ imm.extractLsb' 5 1 ++ 2#5 ++ imm.extractLsb' 0 1 ++ imm.extractLsb' 2 1 ++ imm.extractLsb' 3 2
      ++ imm.extractLsb' 1 1 ++ 1#2) = 1#2 := by
  apply BitVec.eq_of_getLsbD_eq
  intro i hi
  simp only [cOp, BitVec.getLsbD_append, BitVec.getLsbD_extractLsb']
  interval_cases i <;> simp

theorem encC16sp_cFunct3 (imm : BitVec 6) :
    cFunct3 (3#3 ++ imm.extractLsb' 5 1 ++ 2#5 ++ imm.extractLsb' 0 1 ++ imm.extractLsb' 2 1 ++ imm.extractLsb' 3 2
      ++ imm.extractLsb' 1 1 ++ 1#2) = 3#3 := by
  apply BitVec.eq_of_getLsbD_eq
  intro i hi
  simp only [cFunct3, BitVec.getLsbD_append, BitVec.getLsbD_extractLsb']
  interval_cases i <;> simp

theorem encC16sp_cRd (imm : BitVec 6) :
    cRd (3#3 ++ imm.extractLsb' 5 1 ++ 2#5 ++ imm.extractLsb' 0 1 ++ imm.extractLsb' 2 1 ++ imm.extractLsb' 3 2
      ++ imm.extractLsb' 1 1 ++ 1#2) = 2#5 := by
  apply BitVec.eq_of_getLsbD_eq
  intro i hi
  simp only [cRd, BitVec.getLsbD_append, BitVec.getLsbD_extractLsb']
  interval_cases i <;> simp

theorem encC16sp_cImm16sp (imm : BitVec 6) :
    cImm16sp (3#3 ++ imm.extractLsb' 5 1 ++ 2#5 ++ imm.extractLsb' 0 1 ++ imm.extractLsb' 2 1 ++ imm.extractLsb' 3 2
      ++ imm.extractLsb' 1 1 ++ 1#2) = imm := by
  apply BitVec.eq_of_getLsbD_eq
  intro i hi
  simp only [cImm16sp, BitVec.getLsbD_append, BitVec.getLsbD_extractLsb']
  interval_cases i <;> simp

/-! ### Format CLwsp -/

theorem encCLwsp_cOp (rd : Reg) (imm : BitVec 6) :
    cOp (2#3 ++ imm.extractLsb' 3 1 ++ rd ++ imm.extractLsb' 0 3 ++ imm.extractLsb' 4 2 ++ 2#2) = 2#2 := by
  apply BitVec.eq_of_getLsbD_eq
  intro i hi
  simp only [cOp, BitVec.getLsbD_append, BitVec.getLsbD_extractLsb']
  interval_cases i <;> simp

theorem encCLwsp_cFunct3 (rd : Reg) (imm : BitVec 6) :
    cFunct3 (2#3 ++ imm.extractLsb' 3 1 ++ rd ++ imm.extractLsb' 0 3 ++ imm.extractLsb' 4 2 ++ 2#2) = 2#3 := by
  apply BitVec.eq_of_getLsbD_eq
  intro i hi
  simp only [cFunct3, BitVec.getLsbD_append, BitVec.getLsbD_extractLsb']
  interval_cases i <;> simp

theorem encCLwsp_cRd (rd : Reg) (imm : BitVec 6) :
    cRd (2#3 ++ imm.extractLsb' 3 1 ++ rd ++ imm.extractLsb' 0 3 ++ imm.extractLsb' 4 2 ++ 2#2) = rd := by
  apply BitVec.eq_of_getLsbD_eq
  intro i hi
  simp only [cRd, BitVec.getLsbD_append, BitVec.getLsbD_extractLsb']
  interval_cases i <;> simp

theorem encCLwsp_cImmLwsp (rd : Reg) (imm : BitVec 6) :
    cImmLwsp (2#3 ++ imm.extractLsb' 3 1 ++ rd ++ imm.extractLsb' 0 3 ++ imm.extractLsb' 4 2 ++ 2#2) = imm := by
  apply BitVec.eq_of_getLsbD_eq
  intro i hi
  simp only [cImmLwsp, BitVec.getLsbD_append, BitVec.getLsbD_extractLsb']
  interval_cases i <;> simp

/-! ### Format CSwsp -/

theorem encCSwsp_cOp (rs2 : Reg) (imm : BitVec 6) :
    cOp (6#3 ++ imm.extractLsb' 0 4 ++ imm.extractLsb' 4 2 ++ rs2 ++ 2#2) = 2#2 := by
  apply BitVec.eq_of_getLsbD_eq
  intro i hi
  simp only [cOp, BitVec.getLsbD_append, BitVec.getLsbD_extractLsb']
  interval_cases i <;> simp

theorem encCSwsp_cFunct3 (rs2 : Reg) (imm : BitVec 6) :
    cFunct3 (6#3 ++ imm.extractLsb' 0 4 ++ imm.extractLsb' 4 2 ++ rs2 ++ 2#2) = 6#3 := by
  apply BitVec.eq_of_getLsbD_eq
  intro i hi
  simp only [cFunct3, BitVec.getLsbD_append, BitVec.getLsbD_extractLsb']
  interval_cases i <;> simp

theorem encCSwsp_cRs2 (rs2 : Reg) (imm : BitVec 6) :
    cRs2 (6#3 ++ imm.extractLsb' 0 4 ++ imm.extractLsb' 4 2 ++ rs2 ++ 2#2) = rs2 := by
  apply BitVec.eq_of_getLsbD_eq
  intro i hi
  simp only [cRs2, BitVec.getLsbD_append, BitVec.getLsbD_extractLsb']
  interval_cases i <;> simp

theorem encCSwsp_cImmSwsp (rs2 : Reg) (imm : BitVec 6) :
    cImmSwsp (6#3 ++ imm.extractLsb' 0 4 ++ imm.extractLsb' 4 2 ++ rs2 ++ 2#2) = imm := by
  apply BitVec.eq_of_getLsbD_eq
  intro i hi
  simp only [cImmSwsp, BitVec.getLsbD_append, BitVec.getLsbD_extractLsb']
  interval_cases i <;> simp

end Sys2Proof
end

