-- ==== Sys2Proof/Laws/Exec.lean ====
section
/-! SUPPORT. Everything an instruction can do, said once: an instruction that answers a next state answers one of the
states of `Effect`. Invariants and frames over all instructions are a case analysis of it. -/

namespace Sys2Proof.Machine

open Sys2Proof

/-- Bit 0 of the new pc is clear if that of the old one is (10_state R24, R25). -/
def KeepsEven (s : State) (npc : Word) : Prop := s.pc.getLsbD 0 = false → npc.getLsbD 0 = false

/-- What a load's bus transfers leave: devices may have seen some. -/
def BusRead (s u : State) : Prop := u = { s with device := u.device }

/-- What a store's bus transfers leave: memory, what may be stale, the CLINT and what devices have seen may differ, and
memory stays canonical. -/
def BusWrite (s u : State) : Prop := OnlyBus s u ∧ (Memory.wf s.mem = true → Memory.wf u.mem = true)

/-- The next states an instruction can answer from `s`. -/
inductive Effect (s : State) : State → Prop
  | trap (e : Exc) (v : Word) (hd : s.debugMode = false) (hn : s.inNmi = false) :
      Effect s (s.trap false e.code v s.pc)
  | write (rd : Reg) (v npc : Word) (he : KeepsEven s npc) : Effect s ((s.setReg rd v).retire npc)
  | move (npc : Word) (he : KeepsEven s npc) : Effect s (s.retire npc)
  | load (u : State) (rd : Reg) (v npc : Word) (hu : BusRead s u) (he : KeepsEven s npc) :
      Effect s ((u.setReg rd v).retire npc)
  | loadFault (u : State) (e : Exc) (v : Word) (hu : BusRead s u) (hd : s.debugMode = false)
      (hn : s.inNmi = false) : Effect s (u.trap false e.code v s.pc)
  | store (u : State) (npc : Word) (hu : BusWrite s u) (he : KeepsEven s npc) : Effect s (u.retire npc)
  | storeFault (u : State) (e : Exc) (v : Word) (hu : BusWrite s u) (hd : s.debugMode = false)
      (hn : s.inNmi = false) : Effect s (u.trap false e.code v s.pc)
  | csr (c : Csr) (a : CsrAddr) (rd : Reg) (v w : Word) (writes : Bool) (hc : csrOf a = some c)
      (hd : s.csrDenied a writes = false) (he : KeepsEven s (s.pc + 4#32)) :
      Effect s ((State.setReg (if writes then s.writeCsr c w else s) rd v).retireCsr (s.pc + 4#32)
        (if writes then some a else none))
  | fenceI (he : KeepsEven s (s.pc + 4#32)) : Effect s (State.retire { s with stale := [] } (s.pc + 4#32))
  | mret (hd : s.debugMode = false) (hp : s.priv = .M) : Effect s s.trapReturn
  | wfi (he : KeepsEven s (s.pc + 4#32)) :
      Effect s (State.retire { s with wfiSleep := s.wfiSleeps } (s.pc + 4#32))
  | dret (hd : s.debugMode = true) : Effect s s.debugReturn
  | ebreak (hd : s.debugMode = false) : Effect s { s.enterDebug .ebreak s.pc with log := StepLog.empty }

/-! ### New values of pc are even -/

theorem even_add {a b : Word} (ha : a.getLsbD 0 = false) (hb : b.getLsbD 0 = false) : (a + b).getLsbD 0 = false := by
  have ea : a.toNat % 2 = 0 := by simpa [BitVec.getLsbD, Nat.testBit_zero] using ha
  have eb : b.toNat % 2 = 0 := by simpa [BitVec.getLsbD, Nat.testBit_zero] using hb
  simp [BitVec.getLsbD, Nat.testBit_zero, BitVec.toNat_add]
  omega

theorem even_evenAddr (a : Word) : (evenAddr a).getLsbD 0 = false := by
  simp [evenAddr]

theorem even_immJ (imm : BitVec 20) : (immJ imm).getLsbD 0 = false := by
  simp only [immJ, BitVec.getLsbD_signExtend, BitVec.getLsbD_append]
  simp

theorem even_immB (imm : BitVec 12) : (immB imm).getLsbD 0 = false := by
  simp only [immB, BitVec.getLsbD_signExtend, BitVec.getLsbD_append]
  simp

theorem even_immCJ (imm : BitVec 11) : (immCJ imm).getLsbD 0 = false := by
  simp only [immCJ, BitVec.getLsbD_signExtend, BitVec.getLsbD_append]
  simp

theorem even_immCB (imm : BitVec 8) : (immCB imm).getLsbD 0 = false := by
  simp only [immCB, BitVec.getLsbD_signExtend, BitVec.getLsbD_append]
  simp

theorem even_four : (4#32 : Word).getLsbD 0 = false := by decide

theorem even_two : (2#32 : Word).getLsbD 0 = false := by decide

/-! ### The shapes -/

theorem Effect.of_raise {s t : State} {e : Exc} {v : Word} (h : s.raise e v = .next t) : Effect s t := by
  obtain ⟨hd, hn, rfl⟩ := State.raise_next h
  exact .trap e v hd hn

theorem Effect.of_writeBack {s t : State} {i : Instr} {n : Word} {rd : Reg} {v : Word} (hn : n.getLsbD 0 = false)
    (h : s.writeBack i n rd v = .next t) : Effect s t := by
  rcases State.checked_next h with h | h
  · cases h; exact .write rd v _ fun hp => even_add hp hn
  · exact .of_raise h

theorem Effect.of_advance {s t : State} {i : Instr} {n : Word} (hn : n.getLsbD 0 = false)
    (h : s.advance i n = .next t) : Effect s t := by
  rcases State.checked_next h with h | h
  · cases h; exact .move _ fun hp => even_add hp hn
  · exact .of_raise h

theorem Effect.of_jump {s t : State} {i : Instr} {n : Word} {rd : Reg} {target : Word} (he : KeepsEven s target)
    (h : s.jump i n rd target = .next t) : Effect s t := by
  rcases State.checked_next h with h | h
  · cases h; exact .write rd _ _ he
  · exact .of_raise h

theorem Effect.of_branch {s t : State} {i : Instr} {n offset : Word} {c : Bool} (hn : n.getLsbD 0 = false)
    (ho : offset.getLsbD 0 = false) (h : s.branch i n c offset = .next t) : Effect s t := by
  rcases State.checked_next h with h | h
  · cases h
    refine .move _ fun hp => ?_
    split
    · exact even_add hp ho
    · exact even_add hp hn
  · exact .of_raise h

theorem Effect.of_load {s t : State} {i : Instr} {n ea : Word} {rd : Reg} {w : Width} {ext : Word → Word}
    (hn : n.getLsbD 0 = false) (h : s.load i n rd ea w ext = .next t) : Effect s t := by
  rcases State.load_next h with ⟨u, v, hu, rfl⟩ | ⟨u, e, v, hu, h⟩
  · exact .load u rd _ _ hu fun hp => even_add hp hn
  · obtain ⟨hd, hi, rfl⟩ := State.raise_next h
    have hd' : s.debugMode = false := by rw [hu] at hd; exact hd
    have hi' : s.inNmi = false := by rw [hu] at hi; exact hi
    have hp : u.pc = s.pc := by rw [hu]
    rw [hp]
    exact .loadFault u e v hu hd' hi'

theorem Effect.of_store {s t : State} {i : Instr} {n ea v : Word} {w : Width} (hn : n.getLsbD 0 = false)
    (h : s.store i n ea w v = .next t) : Effect s t := by
  rcases State.store_next h with ⟨u, h1, h2, rfl⟩ | ⟨u, e, x, h1, h2, h⟩
  · exact .store u _ ⟨h1, h2⟩ fun hp => even_add hp hn
  · obtain ⟨hd, hi, rfl⟩ := State.raise_next h
    have hd' : s.debugMode = false := by rw [h1] at hd; exact hd
    have hi' : s.inNmi = false := by rw [h1] at hi; exact hi
    have hp : u.pc = s.pc := by rw [h1]
    rw [hp]
    exact .storeFault u e x ⟨h1, h2⟩ hd' hi'

theorem Effect.of_csr {s t : State} {i : Instr} {rd : Reg} {a : CsrAddr} {writes : Bool} {new : Word → Word}
    (h : s.csrAccess i rd a writes new = .next t) : Effect s t := by
  rcases State.csrAccess_next h with ⟨c, hc, hd, rfl⟩ | ⟨e, v, h⟩
  · exact .csr c a rd _ _ writes hc hd fun hp => even_add hp even_four
  · exact .of_raise h

theorem Effect.of_breakpoint {s t : State} (h : s.breakpoint = .next t) : Effect s t := by
  rcases State.breakpoint_next h with ⟨hd, rfl⟩ | h
  · exact .ebreak hd
  · exact .of_raise h

/-! ### Every instruction -/

/-- The inversion of `exec`. -/
theorem exec_effect {s t : State} (i : Instr) (h : exec i s = .next t) : Effect s t := by
  cases i with
  | lui _ _ => change execLui _ _ s = _ at h; exact .of_writeBack even_four h
  | auipc _ _ => change execAuipc _ _ s = _ at h; exact .of_writeBack even_four h
  | jal _ _ => change execJal _ _ s = _ at h; exact .of_jump (fun hp => even_add hp (even_immJ _)) h
  | jalr _ _ _ => change execJalr _ _ _ s = _ at h; exact .of_jump (fun _ => even_evenAddr _) h
  | beq _ _ _ => change execBeq _ _ _ s = _ at h; exact .of_branch even_four (even_immB _) h
  | bne _ _ _ => change execBne _ _ _ s = _ at h; exact .of_branch even_four (even_immB _) h
  | blt _ _ _ => change execBlt _ _ _ s = _ at h; exact .of_branch even_four (even_immB _) h
  | bge _ _ _ => change execBge _ _ _ s = _ at h; exact .of_branch even_four (even_immB _) h
  | bltu _ _ _ => change execBltu _ _ _ s = _ at h; exact .of_branch even_four (even_immB _) h
  | bgeu _ _ _ => change execBgeu _ _ _ s = _ at h; exact .of_branch even_four (even_immB _) h
  | lb _ _ _ => change execLb _ _ _ s = _ at h; exact .of_load even_four h
  | lh _ _ _ => change execLh _ _ _ s = _ at h; exact .of_load even_four h
  | lw _ _ _ => change execLw _ _ _ s = _ at h; exact .of_load even_four h
  | lbu _ _ _ => change execLbu _ _ _ s = _ at h; exact .of_load even_four h
  | lhu _ _ _ => change execLhu _ _ _ s = _ at h; exact .of_load even_four h
  | sb _ _ _ => change execSb _ _ _ s = _ at h; exact .of_store even_four h
  | sh _ _ _ => change execSh _ _ _ s = _ at h; exact .of_store even_four h
  | sw _ _ _ => change execSw _ _ _ s = _ at h; exact .of_store even_four h
  | addi _ _ _ => change execAddi _ _ _ s = _ at h; exact .of_writeBack even_four h
  | slti _ _ _ => change execSlti _ _ _ s = _ at h; exact .of_writeBack even_four h
  | sltiu _ _ _ => change execSltiu _ _ _ s = _ at h; exact .of_writeBack even_four h
  | xori _ _ _ => change execXori _ _ _ s = _ at h; exact .of_writeBack even_four h
  | ori _ _ _ => change execOri _ _ _ s = _ at h; exact .of_writeBack even_four h
  | andi _ _ _ => change execAndi _ _ _ s = _ at h; exact .of_writeBack even_four h
  | slli _ _ _ => change execSlli _ _ _ s = _ at h; exact .of_writeBack even_four h
  | srli _ _ _ => change execSrli _ _ _ s = _ at h; exact .of_writeBack even_four h
  | srai _ _ _ => change execSrai _ _ _ s = _ at h; exact .of_writeBack even_four h
  | add _ _ _ => change execAdd _ _ _ s = _ at h; exact .of_writeBack even_four h
  | sub _ _ _ => change execSub _ _ _ s = _ at h; exact .of_writeBack even_four h
  | sll _ _ _ => change execSll _ _ _ s = _ at h; exact .of_writeBack even_four h
  | slt _ _ _ => change execSlt _ _ _ s = _ at h; exact .of_writeBack even_four h
  | sltu _ _ _ => change execSltu _ _ _ s = _ at h; exact .of_writeBack even_four h
  | xor _ _ _ => change execXor _ _ _ s = _ at h; exact .of_writeBack even_four h
  | srl _ _ _ => change execSrl _ _ _ s = _ at h; exact .of_writeBack even_four h
  | sra _ _ _ => change execSra _ _ _ s = _ at h; exact .of_writeBack even_four h
  | or _ _ _ => change execOr _ _ _ s = _ at h; exact .of_writeBack even_four h
  | and _ _ _ => change execAnd _ _ _ s = _ at h; exact .of_writeBack even_four h
  | fence _ _ _ _ _ => change execFence _ _ _ _ _ s = _ at h; exact .of_advance even_four h
  | ecall =>
    change execEcall s = _ at h
    unfold execEcall at h
    split at h
    · exact .of_raise h
    · exact .of_raise h
  | ebreak => change execEbreak s = _ at h; exact .of_breakpoint h
  | mul _ _ _ => change execMul _ _ _ s = _ at h; exact .of_writeBack even_four h
  | mulh _ _ _ => change execMulh _ _ _ s = _ at h; exact .of_writeBack even_four h
  | mulhsu _ _ _ => change execMulhsu _ _ _ s = _ at h; exact .of_writeBack even_four h
  | mulhu _ _ _ => change execMulhu _ _ _ s = _ at h; exact .of_writeBack even_four h
  | div _ _ _ => change execDiv _ _ _ s = _ at h; exact .of_writeBack even_four h
  | divu _ _ _ => change execDivu _ _ _ s = _ at h; exact .of_writeBack even_four h
  | rem _ _ _ => change execRem _ _ _ s = _ at h; exact .of_writeBack even_four h
  | remu _ _ _ => change execRemu _ _ _ s = _ at h; exact .of_writeBack even_four h
  | csrrw _ _ _ => change execCsrrw _ _ _ s = _ at h; exact .of_csr h
  | csrrs _ _ _ => change execCsrrs _ _ _ s = _ at h; exact .of_csr h
  | csrrc _ _ _ => change execCsrrc _ _ _ s = _ at h; exact .of_csr h
  | csrrwi _ _ _ => change execCsrrwi _ _ _ s = _ at h; exact .of_csr h
  | csrrsi _ _ _ => change execCsrrsi _ _ _ s = _ at h; exact .of_csr h
  | csrrci _ _ _ => change execCsrrci _ _ _ s = _ at h; exact .of_csr h
  | fenceI rd rs1 imm =>
    have e : exec (.fenceI rd rs1 imm) s = .next (State.retire { s with stale := [] } (s.pc + 4#32)) := by
      show State.checked _ _ _ = _
      rw [State.checked_ok (by simp [regsExist, usedRegs])]
    rw [e] at h
    cases h
    exact .fenceI fun hp => even_add hp even_four
  | mret =>
    change execMret s = _ at h
    unfold execMret at h
    split at h
    · cases h
    · rename_i hd
      split at h
      · rename_i hp
        cases h
        exact .mret (by simpa using hd) hp
      · exact .of_raise h
  | wfi =>
    change execWfi s = _ at h
    unfold execWfi at h
    split at h
    · exact .of_raise h
    · cases h
      exact .wfi fun hp => even_add hp even_four
  | dret =>
    change execDret s = _ at h
    unfold execDret at h
    split at h
    · rename_i hd
      cases h
      exact .dret hd
    · exact .of_raise h
  | cAddi4spn _ _ => change execCAddi4spn _ _ s = _ at h; exact .of_writeBack even_two h
  | cLw _ _ _ => change execCLw _ _ _ s = _ at h; exact .of_load even_two h
  | cSw _ _ _ => change execCSw _ _ _ s = _ at h; exact .of_store even_two h
  | cNop _ => change execCNop _ s = _ at h; exact .of_advance even_two h
  | cAddi _ _ => change execCAddi _ _ s = _ at h; exact .of_writeBack even_two h
  | cJal _ => change execCJal _ s = _ at h; exact .of_jump (fun hp => even_add hp (even_immCJ _)) h
  | cLi _ _ => change execCLi _ _ s = _ at h; exact .of_writeBack even_two h
  | cAddi16sp _ => change execCAddi16sp _ s = _ at h; exact .of_writeBack even_two h
  | cLui _ _ => change execCLui _ _ s = _ at h; exact .of_writeBack even_two h
  | cSrli _ _ => change execCSrli _ _ s = _ at h; exact .of_writeBack even_two h
  | cSrai _ _ => change execCSrai _ _ s = _ at h; exact .of_writeBack even_two h
  | cAndi _ _ => change execCAndi _ _ s = _ at h; exact .of_writeBack even_two h
  | cSub _ _ => change execCSub _ _ s = _ at h; exact .of_writeBack even_two h
  | cXor _ _ => change execCXor _ _ s = _ at h; exact .of_writeBack even_two h
  | cOr _ _ => change execCOr _ _ s = _ at h; exact .of_writeBack even_two h
  | cAnd _ _ => change execCAnd _ _ s = _ at h; exact .of_writeBack even_two h
  | cJ _ => change execCJ _ s = _ at h; exact .of_jump (fun hp => even_add hp (even_immCJ _)) h
  | cBeqz _ _ => change execCBeqz _ _ s = _ at h; exact .of_branch even_two (even_immCB _) h
  | cBnez _ _ => change execCBnez _ _ s = _ at h; exact .of_branch even_two (even_immCB _) h
  | cSlli _ _ => change execCSlli _ _ s = _ at h; exact .of_writeBack even_two h
  | cLwsp _ _ => change execCLwsp _ _ s = _ at h; exact .of_load even_two h
  | cJr _ => change execCJr _ s = _ at h; exact .of_jump (fun _ => even_evenAddr _) h
  | cMv _ _ => change execCMv _ _ s = _ at h; exact .of_writeBack even_two h
  | cEbreak => change execCEbreak s = _ at h; exact .of_breakpoint h
  | cJalr _ => change execCJalr _ s = _ at h; exact .of_jump (fun _ => even_evenAddr _) h
  | cAdd _ _ => change execCAdd _ _ s = _ at h; exact .of_writeBack even_two h
  | cSwsp _ _ => change execCSwsp _ _ s = _ at h; exact .of_store even_two h

end Sys2Proof.Machine
end

