-- ==== Sys2Proof/Laws/PerInstr.lean ====
section
/-! SUPPORT. The family WordLength, one lemma per constructor: the two low bits of an instruction's encoding tell its
length (30_encoding R141), so that a fetched encoding is read with the length it was written with. -/

namespace Sys2Proof

theorem parcelIsFull_low (w : BitVec 32) (h : (fOpcode w).extractLsb' 0 2 = 3#2) :
    parcelIsFull (w.extractLsb' 0 16) = true := by
  have e : cOp (w.extractLsb' 0 16) = (fOpcode w).extractLsb' 0 2 := by
    apply BitVec.eq_of_getLsbD_eq
    intro i hi
    simp only [cOp, fOpcode, BitVec.getLsbD_extractLsb']
    interval_cases i <;> simp
  simp [parcelIsFull, e, h]

theorem parcelIsFull_half (p : BitVec 16) (h : cOp p ≠ 3#2) : parcelIsFull p = false := by
  simp [parcelIsFull, h]

end Sys2Proof

namespace Sys2Proof.Laws.WordLength

open Sys2Proof

/-- R141: a 32-bit encoding's first parcel announces 32 bits, a 16-bit one does not. -/
def Statement (i : Instr) : Prop :=
  match encode i with
  | .full w => parcelIsFull (w.extractLsb' 0 16) = true
  | .half p => parcelIsFull p = false

theorem lui (rd : Reg) (imm : BitVec 20) : Statement (.lui rd imm) := parcelIsFull_low _ (by rw [encU_fOpcode]; rfl)
theorem auipc (rd : Reg) (imm : BitVec 20) : Statement (.auipc rd imm) :=
  parcelIsFull_low _ (by rw [encU_fOpcode]; rfl)
theorem jal (rd : Reg) (imm : BitVec 20) : Statement (.jal rd imm) := parcelIsFull_low _ (by rw [encJ_fOpcode]; rfl)
theorem jalr (rd rs1 : Reg) (imm : BitVec 12) : Statement (.jalr rd rs1 imm) :=
  parcelIsFull_low _ (by rw [encI_fOpcode]; rfl)
theorem beq (rs1 rs2 : Reg) (imm : BitVec 12) : Statement (.beq rs1 rs2 imm) :=
  parcelIsFull_low _ (by rw [encB_fOpcode]; rfl)
theorem bne (rs1 rs2 : Reg) (imm : BitVec 12) : Statement (.bne rs1 rs2 imm) :=
  parcelIsFull_low _ (by rw [encB_fOpcode]; rfl)
theorem blt (rs1 rs2 : Reg) (imm : BitVec 12) : Statement (.blt rs1 rs2 imm) :=
  parcelIsFull_low _ (by rw [encB_fOpcode]; rfl)
theorem bge (rs1 rs2 : Reg) (imm : BitVec 12) : Statement (.bge rs1 rs2 imm) :=
  parcelIsFull_low _ (by rw [encB_fOpcode]; rfl)
theorem bltu (rs1 rs2 : Reg) (imm : BitVec 12) : Statement (.bltu rs1 rs2 imm) :=
  parcelIsFull_low _ (by rw [encB_fOpcode]; rfl)
theorem bgeu (rs1 rs2 : Reg) (imm : BitVec 12) : Statement (.bgeu rs1 rs2 imm) :=
  parcelIsFull_low _ (by rw [encB_fOpcode]; rfl)
theorem lb (rd rs1 : Reg) (imm : BitVec 12) : Statement (.lb rd rs1 imm) :=
  parcelIsFull_low _ (by rw [encI_fOpcode]; rfl)
theorem lh (rd rs1 : Reg) (imm : BitVec 12) : Statement (.lh rd rs1 imm) :=
  parcelIsFull_low _ (by rw [encI_fOpcode]; rfl)
theorem lw (rd rs1 : Reg) (imm : BitVec 12) : Statement (.lw rd rs1 imm) :=
  parcelIsFull_low _ (by rw [encI_fOpcode]; rfl)
theorem lbu (rd rs1 : Reg) (imm : BitVec 12) : Statement (.lbu rd rs1 imm) :=
  parcelIsFull_low _ (by rw [encI_fOpcode]; rfl)
theorem lhu (rd rs1 : Reg) (imm : BitVec 12) : Statement (.lhu rd rs1 imm) :=
  parcelIsFull_low _ (by rw [encI_fOpcode]; rfl)
theorem sb (rs1 rs2 : Reg) (imm : BitVec 12) : Statement (.sb rs1 rs2 imm) :=
  parcelIsFull_low _ (by rw [encS_fOpcode]; rfl)
theorem sh (rs1 rs2 : Reg) (imm : BitVec 12) : Statement (.sh rs1 rs2 imm) :=
  parcelIsFull_low _ (by rw [encS_fOpcode]; rfl)
theorem sw (rs1 rs2 : Reg) (imm : BitVec 12) : Statement (.sw rs1 rs2 imm) :=
  parcelIsFull_low _ (by rw [encS_fOpcode]; rfl)
theorem addi (rd rs1 : Reg) (imm : BitVec 12) : Statement (.addi rd rs1 imm) :=
  parcelIsFull_low _ (by rw [encI_fOpcode]; rfl)
theorem slti (rd rs1 : Reg) (imm : BitVec 12) : Statement (.slti rd rs1 imm) :=
  parcelIsFull_low _ (by rw [encI_fOpcode]; rfl)
theorem sltiu (rd rs1 : Reg) (imm : BitVec 12) : Statement (.sltiu rd rs1 imm) :=
  parcelIsFull_low _ (by rw [encI_fOpcode]; rfl)
theorem xori (rd rs1 : Reg) (imm : BitVec 12) : Statement (.xori rd rs1 imm) :=
  parcelIsFull_low _ (by rw [encI_fOpcode]; rfl)
theorem ori (rd rs1 : Reg) (imm : BitVec 12) : Statement (.ori rd rs1 imm) :=
  parcelIsFull_low _ (by rw [encI_fOpcode]; rfl)
theorem andi (rd rs1 : Reg) (imm : BitVec 12) : Statement (.andi rd rs1 imm) :=
  parcelIsFull_low _ (by rw [encI_fOpcode]; rfl)
theorem slli (rd rs1 : Reg) (shamt : BitVec 5) : Statement (.slli rd rs1 shamt) :=
  parcelIsFull_low _ (by rw [encR_fOpcode]; rfl)
theorem srli (rd rs1 : Reg) (shamt : BitVec 5) : Statement (.srli rd rs1 shamt) :=
  parcelIsFull_low _ (by rw [encR_fOpcode]; rfl)
theorem srai (rd rs1 : Reg) (shamt : BitVec 5) : Statement (.srai rd rs1 shamt) :=
  parcelIsFull_low _ (by rw [encR_fOpcode]; rfl)
theorem add (rd rs1 rs2 : Reg) : Statement (.add rd rs1 rs2) := parcelIsFull_low _ (by rw [encR_fOpcode]; rfl)
theorem sub (rd rs1 rs2 : Reg) : Statement (.sub rd rs1 rs2) := parcelIsFull_low _ (by rw [encR_fOpcode]; rfl)
theorem sll (rd rs1 rs2 : Reg) : Statement (.sll rd rs1 rs2) := parcelIsFull_low _ (by rw [encR_fOpcode]; rfl)
theorem slt (rd rs1 rs2 : Reg) : Statement (.slt rd rs1 rs2) := parcelIsFull_low _ (by rw [encR_fOpcode]; rfl)
theorem sltu (rd rs1 rs2 : Reg) : Statement (.sltu rd rs1 rs2) := parcelIsFull_low _ (by rw [encR_fOpcode]; rfl)
theorem xor (rd rs1 rs2 : Reg) : Statement (.xor rd rs1 rs2) := parcelIsFull_low _ (by rw [encR_fOpcode]; rfl)
theorem srl (rd rs1 rs2 : Reg) : Statement (.srl rd rs1 rs2) := parcelIsFull_low _ (by rw [encR_fOpcode]; rfl)
theorem sra (rd rs1 rs2 : Reg) : Statement (.sra rd rs1 rs2) := parcelIsFull_low _ (by rw [encR_fOpcode]; rfl)
theorem or (rd rs1 rs2 : Reg) : Statement (.or rd rs1 rs2) := parcelIsFull_low _ (by rw [encR_fOpcode]; rfl)
theorem and (rd rs1 rs2 : Reg) : Statement (.and rd rs1 rs2) := parcelIsFull_low _ (by rw [encR_fOpcode]; rfl)
theorem fence (fm pred succ : BitVec 4) (rs1 rd : Reg) : Statement (.fence fm pred succ rs1 rd) :=
  parcelIsFull_low _ (by rw [encFence_fOpcode]; rfl)
theorem ecall : Statement .ecall := rfl
theorem ebreak : Statement .ebreak := rfl
theorem mul (rd rs1 rs2 : Reg) : Statement (.mul rd rs1 rs2) := parcelIsFull_low _ (by rw [encR_fOpcode]; rfl)
theorem mulh (rd rs1 rs2 : Reg) : Statement (.mulh rd rs1 rs2) := parcelIsFull_low _ (by rw [encR_fOpcode]; rfl)
theorem mulhsu (rd rs1 rs2 : Reg) : Statement (.mulhsu rd rs1 rs2) := parcelIsFull_low _ (by rw [encR_fOpcode]; rfl)
theorem mulhu (rd rs1 rs2 : Reg) : Statement (.mulhu rd rs1 rs2) := parcelIsFull_low _ (by rw [encR_fOpcode]; rfl)
theorem div (rd rs1 rs2 : Reg) : Statement (.div rd rs1 rs2) := parcelIsFull_low _ (by rw [encR_fOpcode]; rfl)
theorem divu (rd rs1 rs2 : Reg) : Statement (.divu rd rs1 rs2) := parcelIsFull_low _ (by rw [encR_fOpcode]; rfl)
theorem rem (rd rs1 rs2 : Reg) : Statement (.rem rd rs1 rs2) := parcelIsFull_low _ (by rw [encR_fOpcode]; rfl)
theorem remu (rd rs1 rs2 : Reg) : Statement (.remu rd rs1 rs2) := parcelIsFull_low _ (by rw [encR_fOpcode]; rfl)
theorem csrrw (rd rs1 : Reg) (csr : CsrAddr) : Statement (.csrrw rd rs1 csr) :=
  parcelIsFull_low _ (by rw [encI_fOpcode]; rfl)
theorem csrrs (rd rs1 : Reg) (csr : CsrAddr) : Statement (.csrrs rd rs1 csr) :=
  parcelIsFull_low _ (by rw [encI_fOpcode]; rfl)
theorem csrrc (rd rs1 : Reg) (csr : CsrAddr) : Statement (.csrrc rd rs1 csr) :=
  parcelIsFull_low _ (by rw [encI_fOpcode]; rfl)
theorem csrrwi (rd : Reg) (uimm : BitVec 5) (csr : CsrAddr) : Statement (.csrrwi rd uimm csr) :=
  parcelIsFull_low _ (by rw [encI_fOpcode]; rfl)
theorem csrrsi (rd : Reg) (uimm : BitVec 5) (csr : CsrAddr) : Statement (.csrrsi rd uimm csr) :=
  parcelIsFull_low _ (by rw [encI_fOpcode]; rfl)
theorem csrrci (rd : Reg) (uimm : BitVec 5) (csr : CsrAddr) : Statement (.csrrci rd uimm csr) :=
  parcelIsFull_low _ (by rw [encI_fOpcode]; rfl)
theorem fenceI (rd rs1 : Reg) (imm : BitVec 12) : Statement (.fenceI rd rs1 imm) :=
  parcelIsFull_low _ (by rw [encI_fOpcode]; rfl)
theorem mret : Statement .mret := rfl
theorem wfi : Statement .wfi := rfl
theorem dret : Statement .dret := rfl
theorem cAddi4spn (rd : CReg) (imm : BitVec 8) : Statement (.cAddi4spn rd imm) :=
  parcelIsFull_half _ (by rw [encCIW_cOp]; decide)
theorem cLw (rd rs1 : CReg) (imm : BitVec 5) : Statement (.cLw rd rs1 imm) :=
  parcelIsFull_half _ (by rw [encCLS_cOp]; decide)
theorem cSw (rs1 rs2 : CReg) (imm : BitVec 5) : Statement (.cSw rs1 rs2 imm) :=
  parcelIsFull_half _ (by rw [encCLS_cOp]; decide)
theorem cNop (imm : BitVec 6) : Statement (.cNop imm) := parcelIsFull_half _ (by rw [encCI_cOp]; decide)
theorem cAddi (rd : Reg) (imm : BitVec 6) : Statement (.cAddi rd imm) :=
  parcelIsFull_half _ (by rw [encCI_cOp]; decide)
theorem cJal (imm : BitVec 11) : Statement (.cJal imm) := parcelIsFull_half _ (by rw [encCJ_cOp]; decide)
theorem cLi (rd : Reg) (imm : BitVec 6) : Statement (.cLi rd imm) := parcelIsFull_half _ (by rw [encCI_cOp]; decide)
theorem cAddi16sp (imm : BitVec 6) : Statement (.cAddi16sp imm) := parcelIsFull_half _ (by rw [encC16sp_cOp]; decide)
theorem cLui (rd : Reg) (imm : BitVec 6) : Statement (.cLui rd imm) := parcelIsFull_half _ (by rw [encCI_cOp]; decide)
theorem cSrli (rd : CReg) (shamt : BitVec 5) : Statement (.cSrli rd shamt) :=
  parcelIsFull_half _ (by rw [encCBAlu_cOp]; decide)
theorem cSrai (rd : CReg) (shamt : BitVec 5) : Statement (.cSrai rd shamt) :=
  parcelIsFull_half _ (by rw [encCBAlu_cOp]; decide)
theorem cAndi (rd : CReg) (imm : BitVec 6) : Statement (.cAndi rd imm) :=
  parcelIsFull_half _ (by rw [encCBAlu_cOp]; decide)
theorem cSub (rd rs2 : CReg) : Statement (.cSub rd rs2) := parcelIsFull_half _ (by rw [encCA_cOp]; decide)
theorem cXor (rd rs2 : CReg) : Statement (.cXor rd rs2) := parcelIsFull_half _ (by rw [encCA_cOp]; decide)
theorem cOr (rd rs2 : CReg) : Statement (.cOr rd rs2) := parcelIsFull_half _ (by rw [encCA_cOp]; decide)
theorem cAnd (rd rs2 : CReg) : Statement (.cAnd rd rs2) := parcelIsFull_half _ (by rw [encCA_cOp]; decide)
theorem cJ (imm : BitVec 11) : Statement (.cJ imm) := parcelIsFull_half _ (by rw [encCJ_cOp]; decide)
theorem cBeqz (rs1 : CReg) (imm : BitVec 8) : Statement (.cBeqz rs1 imm) :=
  parcelIsFull_half _ (by rw [encCB_cOp]; decide)
theorem cBnez (rs1 : CReg) (imm : BitVec 8) : Statement (.cBnez rs1 imm) :=
  parcelIsFull_half _ (by rw [encCB_cOp]; decide)
theorem cSlli (rd : Reg) (shamt : BitVec 5) : Statement (.cSlli rd shamt) :=
  parcelIsFull_half _ (by rw [encCR_cOp]; decide)
theorem cLwsp (rd : Reg) (imm : BitVec 6) : Statement (.cLwsp rd imm) :=
  parcelIsFull_half _ (by rw [encCLwsp_cOp]; decide)
theorem cJr (rs1 : Reg) : Statement (.cJr rs1) := parcelIsFull_half _ (by rw [encCR_cOp]; decide)
theorem cMv (rd rs2 : Reg) : Statement (.cMv rd rs2) := parcelIsFull_half _ (by rw [encCR_cOp]; decide)
theorem cEbreak : Statement .cEbreak := rfl
theorem cJalr (rs1 : Reg) : Statement (.cJalr rs1) := parcelIsFull_half _ (by rw [encCR_cOp]; decide)
theorem cAdd (rd rs2 : Reg) : Statement (.cAdd rd rs2) := parcelIsFull_half _ (by rw [encCR_cOp]; decide)
theorem cSwsp (rs2 : Reg) (imm : BitVec 6) : Statement (.cSwsp rs2 imm) :=
  parcelIsFull_half _ (by rw [encCSwsp_cOp]; decide)

end Sys2Proof.Laws.WordLength
end

