-- ==== Sys2Proof/Laws/Fetch.lean ====
section
/-! SUPPORT. Fetching from plain memory that no store has touched since FENCE.I (20_memory R112, R128). -/

namespace Sys2Proof.Machine

open Sys2Proof

/-- R116: the mode of a fetch is the rule's. -/
theorem canFetch_eq (s : State) (r : Region) : canFetch r.perms s.fetchPriv = mayFetch s r := by
  unfold canFetch State.fetchPriv mayFetch State.userFetch
  cases s.debugMode <;> cases s.priv <;> simp

/-- R112, R121: the fetch of a parcel is answered with an error exactly where the rule says. -/
theorem State.fetchAnswer_busError {s : State} {a : Word} : s.fetchAnswer a = .busError ↔ CannotFetch s a := by
  unfold State.fetchAnswer CannotFetch
  cases h : regionAt (Config.fetchMap s.cfg) a with
  | none => simp
  | some r =>
    cases hp : canFetch r.perms s.fetchPriv <;> cases hk : r.kind <;>
      simp [RegionKind.answer, ← canFetch_eq, hp, hk]

theorem State.fetchAnswer_memory {s : State} {a : Word} (h : FetchableByte s a) : s.fetchAnswer a = .memory := by
  obtain ⟨⟨r, hr, hp, hk⟩, -⟩ := h
  unfold State.fetchAnswer
  rw [hr]
  rcases hk with hk | hk <;> simp [canFetch_eq, hp, hk, RegionKind.answer]

theorem State.fetchStop_none {s : State} {a : Word} (h : FetchableByte s a) : s.fetchStop a = none := by
  unfold State.fetchStop
  rw [State.fetchAnswer_memory h]

theorem State.fetchByte_plain {s : State} {a : Word} (h : FetchableByte s a) :
    s.fetchByte .memory a = s.imemByte a := by
  unfold State.fetchByte
  rw [h.2]
  simp [State.fetchedByte, State.imemByte]

theorem State.fetchParcel_plain {s : State} {a : Word} (h0 : FetchableByte s a) (h1 : FetchableByte s (a + 1#32)) :
    s.fetchParcel a = parcelOf (s.imemByte a) (s.imemByte (a + 1#32)) := by
  unfold State.fetchParcel
  rw [State.fetchAnswer_memory h0, State.fetchByte_plain h0, State.fetchByte_plain h1]

theorem parcel_of_full (w : BitVec 32) (k : Nat) :
    parcelOf (w.extractLsb' k 8) (w.extractLsb' (k + 8) 8) = w.extractLsb' k 16 := by
  apply BitVec.eq_of_getLsbD_eq
  intro i hi
  simp only [parcelOf, BitVec.getLsbD_append, BitVec.getLsbD_extractLsb']
  by_cases h : i < 8
  · simp [h, hi]
  · have : i - 8 < 8 := by omega
    have e : k + 8 + (i - 8) = k + i := by omega
    simp [h, hi, this, e]

theorem full_of_parcels (w : BitVec 32) : w.extractLsb' 16 16 ++ w.extractLsb' 0 16 = w := by
  apply BitVec.eq_of_getLsbD_eq
  intro i hi
  simp only [BitVec.getLsbD_append, BitVec.getLsbD_extractLsb']
  by_cases h : i < 16
  · simp [h]
  · have h1 : i - 16 < 16 := by omega
    have h2 : 16 + (i - 16) = i := by omega
    simp [h, h1, h2]

theorem parcel_of_half (p : BitVec 16) : parcelOf (p.extractLsb' 0 8) (p.extractLsb' 8 8) = p := by
  apply BitVec.eq_of_getLsbD_eq
  intro i hi
  simp only [parcelOf, BitVec.getLsbD_append, BitVec.getLsbD_extractLsb']
  by_cases h : i < 8
  · simp [h]
  · have h1 : i - 8 < 8 := by omega
    have h2 : 8 + (i - 8) = i := by omega
    simp [h, h1, h2]

/-- R112: a 32-bit word that stands at pc is what a fetch gives. -/
theorem State.fetchAt_full {s : State} {w : BitVec 32} (h : StandsAtPc s (.full w))
    (hl : parcelIsFull (w.extractLsb' 0 16) = true) : s.fetchAt s.pc = .bits (.full w) := by
  have h0 := h 0 (by simp [InstrBits.len])
  have h1 := h 1 (by simp [InstrBits.len])
  have h2 := h 2 (by simp [InstrBits.len])
  have h3 := h 3 (by simp [InstrBits.len])
  simp [InstrBits.bytes] at h0 h1 h2 h3
  have e3 : s.pc + 2#32 + 1#32 = s.pc + 3#32 := by rw [BitVec.add_assoc]; rfl
  have p0 : s.fetchParcel s.pc = w.extractLsb' 0 16 := by
    rw [State.fetchParcel_plain h0.1 h1.1, ← h0.2, ← h1.2]
    exact parcel_of_full w 0
  have p2 : s.fetchParcel (s.pc + 2#32) = w.extractLsb' 16 16 := by
    rw [State.fetchParcel_plain h2.1 (e3 ▸ h3.1), e3, ← h2.2, ← h3.2]
    exact parcel_of_full w 16
  unfold State.fetchAt
  rw [State.fetchStop_none h0.1, p0, State.fetchStop_none h2.1, p2]
  simp only [hl, if_true]
  rw [full_of_parcels]

/-- R112: a 16-bit parcel that stands at pc is what a fetch gives. -/
theorem State.fetchAt_half {s : State} {p : BitVec 16} (h : StandsAtPc s (.half p)) (hl : parcelIsFull p = false) :
    s.fetchAt s.pc = .bits (.half p) := by
  have h0 := h 0 (by simp [InstrBits.len])
  have h1 := h 1 (by simp [InstrBits.len])
  simp [InstrBits.bytes] at h0 h1
  have p0 : s.fetchParcel s.pc = p := by
    rw [State.fetchParcel_plain h0.1 h1.1, ← h0.2, ← h1.2]
    exact parcel_of_half p
  unfold State.fetchAt
  rw [State.fetchStop_none h0.1, p0]
  simp [hl]

end Sys2Proof.Machine
end

