-- ==== Sys2Proof/Laws/Interrupt.lean ====
section
/-! SUPPORT. The bits of `mip` (10_state R44). -/

namespace Sys2Proof.Machine

open Sys2Proof

theorem State.mip_custom (s : State) (k : Nat) :
    s.mip.getLsbD (16 + k) = (s.lines.custom.getLsbD k && s.cfg.customIrqMask.getLsbD k) := by
  unfold State.mip
  rw [BitVec.getLsbD_append]
  simp

theorem State.mip_software (s : State) : s.mip.getLsbD 3 = s.lines.software := by
  unfold State.mip
  rw [BitVec.getLsbD_append]
  cases s.lines.software <;> cases s.lines.timer <;> cases s.lines.external <;> rfl

theorem State.mip_timer (s : State) : s.mip.getLsbD 7 = s.lines.timer := by
  unfold State.mip
  rw [BitVec.getLsbD_append]
  cases s.lines.software <;> cases s.lines.timer <;> cases s.lines.external <;> rfl

theorem State.mip_external (s : State) : s.mip.getLsbD 11 = s.lines.external := by
  unfold State.mip
  rw [BitVec.getLsbD_append]
  cases s.lines.software <;> cases s.lines.timer <;> cases s.lines.external <;> rfl

/-- Every other bit of `mip` reads 0. -/
theorem State.mip_other (s : State) (n : Nat) (hn : n < 16) (h3 : n ≠ 3) (h7 : n ≠ 7) (h11 : n ≠ 11) :
    s.mip.getLsbD n = false := by
  unfold State.mip
  rw [BitVec.getLsbD_append]
  cases s.lines.software <;> cases s.lines.timer <;> cases s.lines.external <;>
    interval_cases n <;> first | rfl | omega

end Sys2Proof.Machine
end

