-- ==== Sys2Proof/Tests/Slice0.lean ====
section
/-! SUPPORT. Tests: each well-formedness check refuses a term, a word of the spec decodes for every constructor, one step
of the spec's worked examples, and a witness for the hypotheses of every statement. -/

namespace Sys2Proof.Tests

open Sys2Proof Sys2Proof.Machine

/-! ### Each check of WellFormed refuses an ill-formed term (30_encoding R162..R164) -/

theorem test_illFormed_cAddi4spn_zero : Instr.wellFormed (.cAddi4spn 0#3 0#8) = false := by decide
theorem test_illFormed_cAddi_x0 : Instr.wellFormed (.cAddi 0#5 1#6) = false := by decide
theorem test_illFormed_cAddi16sp_zero : Instr.wellFormed (.cAddi16sp 0#6) = false := by decide
theorem test_illFormed_cLui_x2 : Instr.wellFormed (.cLui 2#5 1#6) = false := by decide
theorem test_illFormed_cLui_zero : Instr.wellFormed (.cLui 1#5 0#6) = false := by decide
theorem test_illFormed_cLwsp_x0 : Instr.wellFormed (.cLwsp 0#5 1#6) = false := by decide
theorem test_illFormed_cJr_x0 : Instr.wellFormed (.cJr 0#5) = false := by decide
theorem test_illFormed_cMv_x0 : Instr.wellFormed (.cMv 1#5 0#5) = false := by decide
theorem test_illFormed_cJalr_x0 : Instr.wellFormed (.cJalr 0#5) = false := by decide
theorem test_illFormed_cAdd_x0 : Instr.wellFormed (.cAdd 1#5 0#5) = false := by decide

/-! ### Decoding the example words that the rules print -/

-- R181
theorem test_decode_lui : decode (.full 0x123452B7#32) = .ok (.lui 5#5 0x12345#20) := by decide

-- R182
theorem test_decode_auipc : decode (.full 0xFFFFF317#32) = .ok (.auipc 6#5 0xFFFFF#20) := by decide

-- R212
theorem test_decode_jal : decode (.full 0xFFDFF06F#32) = .ok (.jal 0#5 0xFFFFE#20) := by decide

-- R213
theorem test_decode_jalr : decode (.full 0xFFD280E7#32) = .ok (.jalr 1#5 5#5 0xFFD#12) := by decide

-- R214
theorem test_decode_beq : decode (.full 0x00208463#32) = .ok (.beq 1#5 2#5 4#12) := by decide

-- R215
theorem test_decode_bne : decode (.full 0xFE209CE3#32) = .ok (.bne 1#5 2#5 0xFFC#12) := by decide

-- R216
theorem test_decode_blt : decode (.full 0x0020C463#32) = .ok (.blt 1#5 2#5 4#12) := by decide

-- R217
theorem test_decode_bge : decode (.full 0x0020D463#32) = .ok (.bge 1#5 2#5 4#12) := by decide

-- R218
theorem test_decode_bltu : decode (.full 0x0020E463#32) = .ok (.bltu 1#5 2#5 4#12) := by decide

-- R219
theorem test_decode_bgeu : decode (.full 0x0020F463#32) = .ok (.bgeu 1#5 2#5 4#12) := by decide

-- R231
theorem test_decode_lb : decode (.full 0x00008183#32) = .ok (.lb 3#5 1#5 0#12) := by decide

-- R232
theorem test_decode_lh : decode (.full 0x00209183#32) = .ok (.lh 3#5 1#5 2#12) := by decide

-- R233
theorem test_decode_lw : decode (.full 0xFFC0A183#32) = .ok (.lw 3#5 1#5 0xFFC#12) := by decide

-- R234
theorem test_decode_lbu : decode (.full 0x0000C183#32) = .ok (.lbu 3#5 1#5 0#12) := by decide

-- R235
theorem test_decode_lhu : decode (.full 0x0020D183#32) = .ok (.lhu 3#5 1#5 2#12) := by decide

-- R236
theorem test_decode_sb : decode (.full 0x00208023#32) = .ok (.sb 1#5 2#5 0#12) := by decide

-- R237
theorem test_decode_sh : decode (.full 0x00209123#32) = .ok (.sh 1#5 2#5 2#12) := by decide

-- R238
theorem test_decode_sw : decode (.full 0xFE20AE23#32) = .ok (.sw 1#5 2#5 0xFFC#12) := by decide

-- R183
theorem test_decode_addi : decode (.full 0xFFF00093#32) = .ok (.addi 1#5 0#5 0xFFF#12) := by decide

-- R184
theorem test_decode_slti : decode (.full 0xFFB0A193#32) = .ok (.slti 3#5 1#5 0xFFB#12) := by decide

-- R185
theorem test_decode_sltiu : decode (.full 0xFFF0B193#32) = .ok (.sltiu 3#5 1#5 0xFFF#12) := by decide

-- R186
theorem test_decode_xori : decode (.full 0xFFF0C193#32) = .ok (.xori 3#5 1#5 0xFFF#12) := by decide

-- R187
theorem test_decode_ori : decode (.full 0x0F00E193#32) = .ok (.ori 3#5 1#5 0x0F0#12) := by decide

-- R188
theorem test_decode_andi : decode (.full 0x0FF0F193#32) = .ok (.andi 3#5 1#5 0x0FF#12) := by decide

-- R189
theorem test_decode_slli : decode (.full 0x01F09193#32) = .ok (.slli 3#5 1#5 31#5) := by decide

-- R190
theorem test_decode_srli : decode (.full 0x0040D193#32) = .ok (.srli 3#5 1#5 4#5) := by decide

-- R191
theorem test_decode_srai : decode (.full 0x4040D193#32) = .ok (.srai 3#5 1#5 4#5) := by decide

-- R192
theorem test_decode_add : decode (.full 0x002081B3#32) = .ok (.add 3#5 1#5 2#5) := by decide

-- R193
theorem test_decode_sub : decode (.full 0x402081B3#32) = .ok (.sub 3#5 1#5 2#5) := by decide

-- R194
theorem test_decode_sll : decode (.full 0x002091B3#32) = .ok (.sll 3#5 1#5 2#5) := by decide

-- R195
theorem test_decode_slt : decode (.full 0x0020A1B3#32) = .ok (.slt 3#5 1#5 2#5) := by decide

-- R196
theorem test_decode_sltu : decode (.full 0x0020B1B3#32) = .ok (.sltu 3#5 1#5 2#5) := by decide

-- R197
theorem test_decode_xor : decode (.full 0x0020C1B3#32) = .ok (.xor 3#5 1#5 2#5) := by decide

-- R198
theorem test_decode_srl : decode (.full 0x0020D1B3#32) = .ok (.srl 3#5 1#5 2#5) := by decide

-- R199
theorem test_decode_sra : decode (.full 0x4020D1B3#32) = .ok (.sra 3#5 1#5 2#5) := by decide

-- R200
theorem test_decode_or : decode (.full 0x0020E1B3#32) = .ok (.or 3#5 1#5 2#5) := by decide

-- R201
theorem test_decode_and : decode (.full 0x0020F1B3#32) = .ok (.and 3#5 1#5 2#5) := by decide

-- R239
theorem test_decode_fence : decode (.full 0x0330000F#32) = .ok (.fence 0#4 3#4 3#4 0#5 0#5) := by decide

-- R239
theorem test_decode_fence_tso : decode (.full 0x8330000F#32) = .ok (.fence 8#4 3#4 3#4 0#5 0#5) := by decide

-- R251
theorem test_decode_ecall : decode (.full 0x00000073#32) = .ok (.ecall) := by decide

-- R252
theorem test_decode_ebreak : decode (.full 0x00100073#32) = .ok (.ebreak) := by decide

-- R266
theorem test_decode_mul : decode (.full 0x022081B3#32) = .ok (.mul 3#5 1#5 2#5) := by decide

-- R267
theorem test_decode_mulh : decode (.full 0x022091B3#32) = .ok (.mulh 3#5 1#5 2#5) := by decide

-- R268
theorem test_decode_mulhsu : decode (.full 0x0220A1B3#32) = .ok (.mulhsu 3#5 1#5 2#5) := by decide

-- R269
theorem test_decode_mulhu : decode (.full 0x0220B1B3#32) = .ok (.mulhu 3#5 1#5 2#5) := by decide

-- R270
theorem test_decode_div : decode (.full 0x0220C1B3#32) = .ok (.div 3#5 1#5 2#5) := by decide

-- R271
theorem test_decode_divu : decode (.full 0x0220D1B3#32) = .ok (.divu 3#5 1#5 2#5) := by decide

-- R272
theorem test_decode_rem : decode (.full 0x0220E1B3#32) = .ok (.rem 3#5 1#5 2#5) := by decide

-- R273
theorem test_decode_remu : decode (.full 0x0220F1B3#32) = .ok (.remu 3#5 1#5 2#5) := by decide

-- R332
theorem test_decode_csrrw : decode (.full 0x340312F3#32) = .ok (.csrrw 5#5 6#5 0x340#12) := by decide

-- R333
theorem test_decode_csrrs : decode (.full 0x300022F3#32) = .ok (.csrrs 5#5 0#5 0x300#12) := by decide

-- R334
theorem test_decode_csrrc : decode (.full 0x300332F3#32) = .ok (.csrrc 5#5 6#5 0x300#12) := by decide

-- R335
theorem test_decode_csrrwi : decode (.full 0x340FD2F3#32) = .ok (.csrrwi 5#5 31#5 0x340#12) := by decide

-- R336
theorem test_decode_csrrsi : decode (.full 0x30046073#32) = .ok (.csrrsi 0#5 8#5 0x300#12) := by decide

-- R337
theorem test_decode_csrrci : decode (.full 0x300472F3#32) = .ok (.csrrci 5#5 8#5 0x300#12) := by decide

-- R343
theorem test_decode_fenceI : decode (.full 0x0000100F#32) = .ok (.fenceI 0#5 0#5 0#12) := by decide

-- R346
theorem test_decode_mret : decode (.full 0x30200073#32) = .ok (.mret) := by decide

-- R347
theorem test_decode_wfi : decode (.full 0x10500073#32) = .ok (.wfi) := by decide

-- R348
theorem test_decode_dret : decode (.full 0x7B200073#32) = .ok (.dret) := by decide

-- R281
theorem test_decode_cAddi4spn : decode (.half 0x1FFC#16) = .ok (.cAddi4spn 7#3 255#8) := by decide

-- R282
theorem test_decode_cLw : decode (.half 0x4588#16) = .ok (.cLw 2#3 3#3 2#5) := by decide

-- R283
theorem test_decode_cSw : decode (.half 0xC030#16) = .ok (.cSw 0#3 4#3 16#5) := by decide

-- R284
theorem test_decode_cNop : decode (.half 0x0005#16) = .ok (.cNop 1#6) := by decide

-- R285
theorem test_decode_cAddi : decode (.half 0x157D#16) = .ok (.cAddi 10#5 0x3F#6) := by decide

-- R286
theorem test_decode_cJal : decode (.half 0x3FFD#16) = .ok (.cJal 0x7FF#11) := by decide

-- R287
theorem test_decode_cLi : decode (.half 0x557D#16) = .ok (.cLi 10#5 0x3F#6) := by decide

-- R288
theorem test_decode_cAddi16sp : decode (.half 0x7139#16) = .ok (.cAddi16sp 0x3C#6) := by decide

-- R289
theorem test_decode_cLui : decode (.half 0x757D#16) = .ok (.cLui 10#5 0x3F#6) := by decide

-- R290
theorem test_decode_cSrli : decode (.half 0x817D#16) = .ok (.cSrli 2#3 31#5) := by decide

-- R291
theorem test_decode_cSrai : decode (.half 0x8411#16) = .ok (.cSrai 0#3 4#5) := by decide

-- R292
theorem test_decode_cAndi : decode (.half 0x9941#16) = .ok (.cAndi 2#3 0x30#6) := by decide

-- R293
theorem test_decode_cSub : decode (.half 0x8D0D#16) = .ok (.cSub 2#3 3#3) := by decide

-- R294
theorem test_decode_cXor : decode (.half 0x8C25#16) = .ok (.cXor 0#3 1#3) := by decide

-- R295
theorem test_decode_cOr : decode (.half 0x8C45#16) = .ok (.cOr 0#3 1#3) := by decide

-- R296
theorem test_decode_cAnd : decode (.half 0x8C65#16) = .ok (.cAnd 0#3 1#3) := by decide

-- R297
theorem test_decode_cJ : decode (.half 0xBFF5#16) = .ok (.cJ 0x7FE#11) := by decide

-- R298
theorem test_decode_cBeqz : decode (.half 0xDD6D#16) = .ok (.cBeqz 2#3 0xFD#8) := by decide

-- R299
theorem test_decode_cBnez : decode (.half 0xFFF5#16) = .ok (.cBnez 7#3 0xFE#8) := by decide

-- R300
theorem test_decode_cSlli : decode (.half 0x02FE#16) = .ok (.cSlli 5#5 31#5) := by decide

-- R301
theorem test_decode_cLwsp : decode (.half 0x50FE#16) = .ok (.cLwsp 1#5 63#6) := by decide

-- R302
theorem test_decode_cJr : decode (.half 0x8502#16) = .ok (.cJr 10#5) := by decide

-- R303
theorem test_decode_cMv : decode (.half 0x852E#16) = .ok (.cMv 10#5 11#5) := by decide

-- R304
theorem test_decode_cEbreak : decode (.half 0x9002#16) = .ok (.cEbreak) := by decide

-- R305
theorem test_decode_cJalr : decode (.half 0x9082#16) = .ok (.cJalr 1#5) := by decide

-- R306
theorem test_decode_cAdd : decode (.half 0x952A#16) = .ok (.cAdd 10#5 10#5) := by decide

-- R307
theorem test_decode_cSwsp : decode (.half 0xDF86#16) = .ok (.cSwsp 1#5 63#6) := by decide

-- R308: the all-zero parcel; R289: x2 makes it C.ADDI16SP; R301: rd = x0; R153: inst[25] = 1; R349: SRET
theorem test_decode_refused : (∀ b ∈ [InstrBits.half 0x0000#16, .half 0x4002#16, .full 0x02009193#32, .full 0x10200073#32],
    (match decode b with | .ok _ => false | .error _ => true) = true) := by decide

/-! ### One step of the rules' worked examples -/

/-- RV32I after reset, with registers, pc and memory bytes set. -/
def st (pc : Word) (regs : List (Reg × Word)) (bytes : List Host.Cell) : State :=
  regs.foldl (fun s p => s.setReg p.1 p.2) { State.reset with pc := pc, mem := bytes }

/-- What `f` reads in the state that an instruction leads to, if it leads to one. -/
def after (i : Instr) (s : State) (f : State → Word) : Option Word :=
  match exec i s with
  | .next t => some (f t)
  | .fault _ => none
  | .refused _ => none

/-- Register `r` after an instruction. -/
def regAfter (i : Instr) (s : State) (r : Reg) : Option Word := after i s fun t => t.reg r

/-- The pc after an instruction. -/
def pcAfter (i : Instr) (s : State) : Option Word := after i s State.pc

-- R181
theorem test_lui : regAfter (.lui 5#5 0xFFFFF#20) (st 0 [] []) 5#5 = some 0xFFFFF000#32 := by
  decide

-- R182
theorem test_auipc : regAfter (.auipc 6#5 0xFFFFF#20) (st 0x100#32 [] []) 6#5 = some 0xFFFFF100#32 := by
  decide

-- R212
theorem test_jal : after (.jal 1#5 8#20) (st 0x100#32 [] []) (fun t => t.reg 1#5 + (t.pc <<< 16)) = some 0x1100104#32 := by
  decide

-- R213
theorem test_jalr_reads_first :
    after (.jalr 5#5 5#5 4#12) (st 0x100#32 [(5#5, 0x300#32)] []) (fun t => t.reg 5#5 + (t.pc <<< 16)) = some 0x3040104#32 := by
  decide

-- R213
theorem test_jalr_even : pcAfter (.jalr 1#5 5#5 0xFFD#12) (st 0x100#32 [(5#5, 0x1004#32)] []) = some 0x1000#32 := by
  decide

-- R214
theorem test_beq_taken : pcAfter (.beq 1#5 2#5 4#12) (st 0x100#32 [(1#5, 5#32), (2#5, 5#32)] []) = some 0x108#32 := by
  decide

-- R214
theorem test_beq_not_taken : pcAfter (.beq 1#5 2#5 4#12) (st 0x100#32 [(1#5, 5#32), (2#5, 6#32)] []) = some 0x104#32 := by
  decide

-- R215
theorem test_bne_backwards : pcAfter (.bne 1#5 2#5 0xFFC#12) (st 0x100#32 [(1#5, 5#32), (2#5, 6#32)] []) = some 0xF8#32 := by
  decide

-- R216
theorem test_blt_signed : pcAfter (.blt 1#5 2#5 4#12) (st 0x100#32 [(1#5, 0xFFFFFFFF#32), (2#5, 1#32)] []) = some 0x108#32 := by
  decide

-- R217
theorem test_bge_equal : pcAfter (.bge 1#5 2#5 4#12) (st 0x100#32 [(1#5, 7#32), (2#5, 7#32)] []) = some 0x108#32 := by
  decide

-- R218
theorem test_bltu_unsigned : pcAfter (.bltu 1#5 2#5 4#12) (st 0x100#32 [(1#5, 0xFFFFFFFF#32), (2#5, 1#32)] []) = some 0x104#32 := by
  decide

-- R219
theorem test_bgeu_unsigned : pcAfter (.bgeu 1#5 2#5 4#12) (st 0x100#32 [(1#5, 0xFFFFFFFF#32), (2#5, 1#32)] []) = some 0x108#32 := by
  decide

-- R231
theorem test_lb : regAfter (.lb 3#5 1#5 0#12) (st 0 [(1#5, 0x1000#32)] [(0x1000, 0x80#8)]) 3#5 = some 0xFFFFFF80#32 := by
  decide

-- R232
theorem test_lh : regAfter (.lh 3#5 1#5 2#12) (st 0 [(1#5, 0x1000#32)] [(0x1002, 0x34#8), (0x1003, 0x92#8)]) 3#5 = some 0xFFFF9234#32 := by
  decide

-- R232
theorem test_lh_wraps : regAfter (.lh 3#5 0#5 0xFFF#12) (st 0 [] [(0, 0x12#8), (0xFFFFFFFF, 0x34#8)]) 3#5 = some 0x1234#32 := by
  decide

-- R233
theorem test_lw_misaligned :
    regAfter (.lw 3#5 1#5 1#12) (st 0 [(1#5, 0x1000#32)] [(0x1000, 0x44#8), (0x1001, 0x33#8), (0x1002, 0x22#8),
    (0x1003, 0x11#8), (0x1004, 0x88#8)]) 3#5 = some 0x88112233#32 := by
  decide

-- R234
theorem test_lbu : regAfter (.lbu 3#5 1#5 0#12) (st 0 [(1#5, 0x1000#32)] [(0x1000, 0x80#8)]) 3#5 = some 0x80#32 := by
  decide

-- R235
theorem test_lhu : regAfter (.lhu 3#5 1#5 2#12) (st 0 [(1#5, 0x1000#32)] [(0x1002, 0x34#8), (0x1003, 0x92#8)]) 3#5 = some 0x9234#32 := by
  decide

-- R236
theorem test_sb :
    after (.sb 1#5 2#5 0#12) (st 0 [(1#5, 0x1000#32), (2#5, 0x123456AB#32)] []) (fun t => t.byteAt 0x1001#32 ++ t.byteAt 0x1000#32 ++ 0#16) = some 0xAB0000#32 := by
  decide

-- R238
theorem test_sw_misaligned : after (.sw 1#5 2#5 3#12) (st 0 [(1#5, 0x1000#32), (2#5, 0x11223344#32)] []) (fun t =>
    t.byteAt 0x1006#32 ++ t.byteAt 0x1005#32 ++ t.byteAt 0x1004#32 ++ t.byteAt 0x1003#32) = some 0x11223344#32 := by
  decide

-- R237
theorem test_sh : after (.sh 1#5 2#5 2#12) (st 0 [(1#5, 0x1000#32), (2#5, 0x1234ABCD#32)] []) (fun t =>
    t.byteAt 0x1004#32 ++ t.byteAt 0x1003#32 ++ t.byteAt 0x1002#32 ++ t.byteAt 0x1001#32) = some 0xABCD00#32 := by
  decide

-- R183
theorem test_addi : regAfter (.addi 2#5 1#5 1#12) (st 0 [(1#5, 0xFFFFFFFF#32)] []) 2#5 = some 0#32 := by
  decide

-- R184
theorem test_slti : regAfter (.slti 3#5 1#5 0#12) (st 0 [(1#5, 0xFFFFFFFF#32)] []) 3#5 = some 1#32 := by
  decide

-- R185
theorem test_sltiu : regAfter (.sltiu 3#5 1#5 0xFFF#12) (st 0 [(1#5, 5#32)] []) 3#5 = some 1#32 := by
  decide

-- R186
theorem test_xori : regAfter (.xori 3#5 1#5 0xFFF#12) (st 0 [(1#5, 0x0F0F0F0F#32)] []) 3#5 = some 0xF0F0F0F0#32 := by
  decide

-- R187
theorem test_ori : regAfter (.ori 3#5 1#5 0x0F0#12) (st 0 [(1#5, 0xF#32)] []) 3#5 = some 0xFF#32 := by
  decide

-- R188
theorem test_andi : regAfter (.andi 3#5 1#5 0x0FF#12) (st 0 [(1#5, 0x12345678#32)] []) 3#5 = some 0x78#32 := by
  decide

-- R189
theorem test_slli : regAfter (.slli 3#5 1#5 31#5) (st 0 [(1#5, 0x80000001#32)] []) 3#5 = some 0x80000000#32 := by
  decide

-- R190
theorem test_srli : regAfter (.srli 3#5 1#5 4#5) (st 0 [(1#5, 0x80000001#32)] []) 3#5 = some 0x8000000#32 := by
  decide

-- R191
theorem test_srai : regAfter (.srai 3#5 1#5 4#5) (st 0 [(1#5, 0x80000001#32)] []) 3#5 = some 0xF8000000#32 := by
  decide

-- R192
theorem test_add_wraps : regAfter (.add 3#5 1#5 2#5) (st 0 [(1#5, 0xFFFFFFFF#32), (2#5, 2#32)] []) 3#5 = some 1#32 := by
  decide

-- R21
theorem test_add_x0 : regAfter (.add 0#5 1#5 2#5) (st 0 [(1#5, 1#32), (2#5, 2#32)] []) 0#5 = some 0#32 := by
  decide

-- R193
theorem test_sub : regAfter (.sub 3#5 1#5 2#5) (st 0 [(1#5, 1#32), (2#5, 2#32)] []) 3#5 = some 0xFFFFFFFF#32 := by
  decide

-- R194
theorem test_sll_low_five : regAfter (.sll 3#5 1#5 2#5) (st 0 [(1#5, 1#32), (2#5, 0x21#32)] []) 3#5 = some 2#32 := by
  decide

-- R195
theorem test_slt : regAfter (.slt 3#5 1#5 2#5) (st 0 [(1#5, 0x80000000#32), (2#5, 0x7FFFFFFF#32)] []) 3#5 = some 1#32 := by
  decide

-- R196
theorem test_sltu : regAfter (.sltu 3#5 1#5 2#5) (st 0 [(1#5, 0x80000000#32), (2#5, 0x7FFFFFFF#32)] []) 3#5 = some 0#32 := by
  decide

-- R198
theorem test_srl : regAfter (.srl 3#5 1#5 2#5) (st 0 [(1#5, 0x80000000#32), (2#5, 31#32)] []) 3#5 = some 1#32 := by
  decide

-- R199
theorem test_sra : regAfter (.sra 3#5 1#5 2#5) (st 0 [(1#5, 0x80000000#32), (2#5, 31#32)] []) 3#5 = some 0xFFFFFFFF#32 := by
  decide

-- R266
theorem test_mul : regAfter (.mul 3#5 1#5 2#5) (st 0 [(1#5, 7#32), (2#5, 0xFFFFFFFD#32)] []) 3#5 = some 0xFFFFFFEB#32 := by
  decide

-- R267
theorem test_mulh : regAfter (.mulh 3#5 1#5 2#5) (st 0 [(1#5, 0xFFFFFFFF#32), (2#5, 1#32)] []) 3#5 = some 0xFFFFFFFF#32 := by
  decide

-- R268
theorem test_mulhsu : regAfter (.mulhsu 3#5 1#5 2#5) (st 0 [(1#5, 0x80000000#32), (2#5, 0xFFFFFFFF#32)] []) 3#5 = some 0x80000000#32 := by
  decide

-- R269
theorem test_mulhu : regAfter (.mulhu 3#5 1#5 2#5) (st 0 [(1#5, 0xFFFFFFFF#32), (2#5, 0xFFFFFFFF#32)] []) 3#5 = some 0xFFFFFFFE#32 := by
  decide

-- R270
theorem test_div : regAfter (.div 3#5 1#5 2#5) (st 0 [(1#5, 0xFFFFFFF9#32), (2#5, 2#32)] []) 3#5 = some 0xFFFFFFFD#32 := by
  decide

-- R270
theorem test_div_overflow : regAfter (.div 3#5 1#5 2#5) (st 0 [(1#5, 0x80000000#32), (2#5, 0xFFFFFFFF#32)] []) 3#5 = some 0x80000000#32 := by
  decide

-- R271
theorem test_divu_zero : regAfter (.divu 3#5 1#5 0#5) (st 0 [(1#5, 9#32)] []) 3#5 = some 0xFFFFFFFF#32 := by
  decide

-- R272
theorem test_rem : regAfter (.rem 3#5 1#5 2#5) (st 0 [(1#5, 0xFFFFFFF9#32), (2#5, 2#32)] []) 3#5 = some 0xFFFFFFFF#32 := by
  decide

-- R272
theorem test_rem_zero : regAfter (.rem 3#5 1#5 0#5) (st 0 [(1#5, 0xFFFFFFF9#32)] []) 3#5 = some 0xFFFFFFF9#32 := by
  decide

-- R273
theorem test_remu : regAfter (.remu 3#5 1#5 2#5) (st 0 [(1#5, 0xFFFFFFF9#32), (2#5, 2#32)] []) 3#5 = some 1#32 := by
  decide

-- R332, R34
theorem test_csrrw_masked :
    after (.csrrw 5#5 6#5 0x300#12) (st 0 [(6#5, 0xFFFFFFFF#32)] []) (fun t => t.readCsr .mstatus) = some 0x221888#32 := by
  decide

-- R333
theorem test_csrrs_reads : regAfter (.csrrs 5#5 0#5 0x301#12) (st 0 [] []) 5#5 = some 0x40101104#32 := by
  decide

-- R334
theorem test_csrrc :
    after (.csrrc 5#5 6#5 0x300#12) { st 0 [(6#5, 8#32)] [] with mstatus := ⟨true, true, .M, false, false⟩ } (fun t =>
    t.readCsr .mstatus) = some 0x1880#32 := by
  decide

-- R335
theorem test_csrrwi : after (.csrrwi 5#5 31#5 0x340#12) (st 0 [] []) (fun t => t.readCsr .mscratch) = some 0x1F#32 := by
  decide

-- R336
theorem test_csrrsi :
    after (.csrrsi 0#5 8#5 0x300#12) { st 0 [] [] with mstatus := ⟨false, false, .M, false, false⟩ } (fun t =>
    t.readCsr .mstatus) = some 0x1808#32 := by
  decide

-- R337
theorem test_csrrci :
    regAfter (.csrrci 5#5 8#5 0x300#12) { st 0 [] [] with mstatus := ⟨true, true, .M, false, false⟩ } 5#5 = some 0x1888#32 := by
  decide

-- R332
theorem test_csr_read_only : after (.csrrw 0#5 6#5 0xF14#12) (st 0x80#32 [] []) (fun t => t.readCsr .mcause) = some 2#32 := by
  decide

-- R332
theorem test_csr_unimp : after (.csrrw 0#5 0#5 0xC00#12) (st 0x80#32 [] []) (fun t => t.readCsr .mtval) = some 0xC0001073#32 := by
  decide

-- R251
theorem test_ecall_cause :
    after .ecall { st 0x200#32 [] [] with mtvec := 0x100#32, priv := .U } (fun t => t.readCsr .mcause) = some 8#32 := by
  decide

-- R251, R367
theorem test_ecall_mepc_pc :
    after .ecall { st 0x200#32 [] [] with mtvec := 0x101#32 } (fun t => t.mepc + (t.pc <<< 16)) = some 0x1000200#32 := by
  decide

-- R252
theorem test_ebreak : after .ebreak { st 0x300#32 [] [] with mtvec := 0x100#32 } (fun t => t.readCsr .mcause) = some 3#32 := by
  decide

-- R346
theorem test_mret_mstatus :
    after .mret { st 0 [] [] with mstatus := ⟨false, true, .U, false, false⟩, mepc := 0x400#32 } (fun t =>
    t.readCsr .mstatus) = some 0x88#32 := by
  decide

-- R346
theorem test_mret_to_m :
    after .mret { st 0 [] [] with mstatus := ⟨false, false, .M, false, false⟩ } (fun t => t.readCsr .mstatus) = some 0x80#32 := by
  decide

-- R348
theorem test_dret_illegal : after .dret (st 0x500#32 [] []) (fun t => t.mtval) = some 0x7B200073#32 := by
  decide

-- R239
theorem test_fence : pcAfter (.fence 0#4 15#4 15#4 0#5 0#5) (st 0x100#32 [] []) = some 0x104#32 := by
  decide

-- R281
theorem test_cAddi4spn : regAfter (.cAddi4spn 7#3 255#8) (st 0 [(2#5, 0x2000#32)] []) 15#5 = some 0x23FC#32 := by
  decide

-- R282
theorem test_cLw : regAfter (.cLw 2#3 3#3 2#5) (st 0 [(11#5, 0x1000#32)] [(0x1008, 0x7F#8)]) 10#5 = some 0x7F#32 := by
  decide

-- R283
theorem test_cSw :
    after (.cSw 3#3 2#3 2#5) (st 0 [(11#5, 0x1000#32), (10#5, 0x5A#32)] []) (fun t => t.byteAt 0x1008#32 ++ 0#24) = some 0x5A000000#32 := by
  decide

-- R285
theorem test_cAddi : after (.cAddi 10#5 0x3F#6) (st 0x100#32 [] []) (fun t => t.reg 10#5 + t.pc) = some 0x101#32 := by
  decide

-- R286
theorem test_cJal : after (.cJal 0x7FF#11) (st 0x100#32 [] []) (fun t => t.reg 1#5 + (t.pc <<< 16)) = some 0xFE0102#32 := by
  decide

-- R287
theorem test_cLi : regAfter (.cLi 10#5 0x3F#6) (st 0 [] []) 10#5 = some 0xFFFFFFFF#32 := by
  decide

-- R288
theorem test_cAddi16sp : regAfter (.cAddi16sp 0x3C#6) (st 0 [(2#5, 0x2000#32)] []) 2#5 = some 0x1FC0#32 := by
  decide

-- R289
theorem test_cLui : regAfter (.cLui 10#5 0x3F#6) (st 0 [] []) 10#5 = some 0xFFFFF000#32 := by
  decide

-- R291
theorem test_cSrai : regAfter (.cSrai 0#3 4#5) (st 0 [(8#5, 0x80000000#32)] []) 8#5 = some 0xF8000000#32 := by
  decide

-- R292
theorem test_cAndi : regAfter (.cAndi 2#3 0x30#6) (st 0 [(10#5, 0x1234567F#32)] []) 10#5 = some 0x12345670#32 := by
  decide

-- R293
theorem test_cSub : regAfter (.cSub 0#3 1#3) (st 0 [(8#5, 1#32), (9#5, 2#32)] []) 8#5 = some 0xFFFFFFFF#32 := by
  decide

-- R297
theorem test_cJ : pcAfter (.cJ 0x7FE#11) (st 0x100#32 [] []) = some 0xFC#32 := by
  decide

-- R298
theorem test_cBeqz_not_taken : pcAfter (.cBeqz 0#3 4#8) (st 0x100#32 [(8#5, 1#32)] []) = some 0x102#32 := by
  decide

-- R299
theorem test_cBnez_taken : pcAfter (.cBnez 0#3 4#8) (st 0x100#32 [(8#5, 1#32)] []) = some 0x108#32 := by
  decide

-- R301
theorem test_cLwsp :
    regAfter (.cLwsp 10#5 2#6) (st 0 [(2#5, 0x2000#32)] [(0x2008, 0xEF#8), (0x2009, 0xBE#8), (0x200A, 0xAD#8),
    (0x200B, 0xDE#8)]) 10#5 = some 0xDEADBEEF#32 := by
  decide

-- R305
theorem test_cJalr_reads_first :
    after (.cJalr 1#5) (st 0x100#32 [(1#5, 0x500#32)] []) (fun t => t.reg 1#5 + (t.pc <<< 16)) = some 0x5000102#32 := by
  decide

-- R306
theorem test_cAdd_same : regAfter (.cAdd 10#5 10#5) (st 0 [(10#5, 0x80000001#32)] []) 10#5 = some 2#32 := by
  decide

-- R307
theorem test_cSwsp :
    after (.cSwsp 10#5 2#6) (st 0 [(2#5, 0x2000#32), (10#5, 0x5A#32)] []) (fun t => t.byteAt 0x2008#32 ++ 0#24) = some 0x5A000000#32 := by
  decide

-- R261
theorem test_rv32e_before_access :
    after (.lw 17#5 0#5 0#12) { st 0 [] [] with cfg := { Config.standard with rv32e := true, memMap := [] } } (fun t =>
    t.readCsr .mcause) = some 2#32 := by
  decide

/-- What `f` reads in the state that a step leads to, if it leads to one. -/
def stepped (s : State) (f : State → Word) : Option Word :=
  match step s with
  | .next t => some (f t)
  | .fault _ => none
  | .refused _ => none

/-- After reset with the interrupt lines, `mie`, `mstatus.MIE` and `mtvec` set. -/
def irq (l : Lines) (mie mtvec : Word) : State :=
  { State.reset with lines := l, mie := mie, mtvec := mtvec, mstatus := ⟨true, true, .U, false, false⟩ }

-- R372, R367: the timer interrupt before the instruction at pc, vectored
theorem test_timer_interrupt : stepped (irq ⟨false, true, false, 0#16, false, false⟩ 0x80#32 0x101#32)
    (fun t => t.pc + (t.mepc <<< 16)) = some 0x0080011C#32 := by
  decide

-- R374: custom line 17 before the software and timer interrupts
theorem test_interrupt_priority : stepped (irq ⟨true, true, true, 2#16, false, false⟩ 0xFFFF0888#32 0x100#32)
    (fun t => t.readCsr .mcause) = some 0x80000011#32 := by
  decide

-- R376: the NMI ignores mie
theorem test_nmi : stepped (irq ⟨false, false, false, 0#16, true, false⟩ 0#32 0x101#32)
    (fun t => t.pc + (t.mcause.value <<< 8)) = some 0x00002180#32 := by
  decide

-- R353, R369: the all-zero parcel
theorem test_illegal_parcel : stepped (State.reset.withFetchWord 16 0x0000) (fun t => t.readCsr .mcause) = some 2#32 := by
  decide

-- R62: a retiring instruction counts in minstret
theorem test_minstret : stepped (State.reset.withFetchWord 32 0x00000013) (fun t => t.readCsr .minstret) = some 1#32 := by
  decide

-- R62: ECALL does not retire
theorem test_minstret_trap : stepped (State.reset.withFetchWord 32 0x00000073) (fun t => t.readCsr .minstret)
    = some 0#32 := by
  decide

-- R347: WFI sleeps and the pc moves past it
theorem test_wfi : stepped (State.reset.withFetchWord 32 0x10500073) (fun t => t.pc + boolWord t.wfiSleep)
    = some 0x85#32 := by
  decide

-- R348: in Debug mode DRET goes to dpc
theorem test_dret : pcAfter .dret { State.reset with debugMode := true, dpc := 0x1234#32 } = some 0x1234#32 := by
  decide

/-! ### Witnesses: states and operands that meet the hypotheses of the statements -/

/-- Every address lies in the one region of the standard map. -/
theorem full_region (a : Word) : regionAt Config.standard.memMap a = some ⟨0#32, 0x100000000, .ram, Perms.all⟩ := by
  have := a.isLt
  simp only [regionAt, Config.standard, List.find?_cons, Region.contains]
  rw [decide_eq_true (show (0#32).toNat ≤ a.toNat by simp),
    decide_eq_true (show a.toNat < (0#32).toNat + 4294967296 by simpa using this)]
  rfl

theorem full_readable (s : State) (h : s.cfg = Config.standard) (ea : Word) (n : Nat) : Readable s ea n := fun _ _ =>
  ⟨_, by rw [h]; exact full_region _, by cases hu : s.userData <;> simp [mayRead, hu, Perms.all], .inl rfl⟩

theorem full_writable (s : State) (h : s.cfg = Config.standard) (ea : Word) (n : Nat) : Writable s ea n := fun _ _ =>
  ⟨_, by rw [h]; exact full_region _, by cases hu : s.userData <;> simp [mayWrite, hu, Perms.all], rfl⟩

theorem full_fetchable (s : State) (h : s.cfg = Config.standard) (hs : s.stale = []) (a : Word) : FetchableByte s a :=
  ⟨⟨_, by rw [h]; exact full_region _, by cases hu : s.userFetch <;> simp [mayFetch, hu, Perms.all], .inl rfl⟩,
    by simp [State.staleAt, hs]⟩

/-- An RV32E machine. -/
def rv32e : State := { State.reset with cfg := { Config.standard with rv32e := true } }

/-- RV32I with an addi at pc, and one with a compressed instruction there. -/
def withAddi : State := State.reset.withFetchWord 32 0xFFF00093
def withCLi : State := State.reset.withFetchWord 16 0x4515

theorem test_witness_DecodeEncode : Instr.wellFormed (.cLwsp 31#5 63#6) = true ∧ Instr.wellFormed (.cLui 1#5 63#6) = true
    ∧ Instr.wellFormed (.cAddi4spn 7#3 255#8) = true := by decide

theorem test_witness_EncodeDecode : decode (.half 0x50FE#16) = .ok (.cLwsp 1#5 63#6)
    ∧ decode (.full 0xFE20AE23#32) = .ok (.sw 1#5 2#5 0xFFC#12) := by decide

theorem test_witness_OtherOpcodesRefused :
    ∀ w ∈ [0xFFFFFFFF#32, 0x0000002F#32, 0x00000000#32],
      w.toNat % 128 ∉ [0x37, 0x17, 0x6F, 0x67, 0x63, 0x03, 0x23, 0x13, 0x33, 0x0F, 0x73] := by simp

theorem test_witness_ResetValues : State.reset = State.resetWith Config.standard [] [] Lines.low [] [] 0 := rfl

/-- RAM everywhere; a store of x2 to 0x0FFE stands at pc; reset is asserted at the next step, at which another agent
writes 0x5A to 0x2000. -/
def resetting : State :=
  { (st 0x80#32 [(1#5, 0x0FFE#32), (2#5, 0xFFFFFFFF#32)] []).withFetchWord 32 0x0020A023 with
    inputs := [⟨Lines.low, [(0x2000#32, 0x5A#8)], true⟩] }

theorem resetting_stands : StandsAtPc resetting.beginStep (.full 0x0020A023#32) := by
  intro i hi
  have : i < 4 := hi
  refine ⟨⟨⟨_, full_region _, by decide, .inl rfl⟩, ?_⟩, ?_⟩ <;> interval_cases i <;> decide

theorem test_witness_ResetSignal : resetting.input.reset = true ∧ Memory.wf resetting.mem = true
    ∧ Instr.wellFormed (.sw 1#5 2#5 0#12) = true ∧ encode (.sw 1#5 2#5 0#12) = .full 0x0020A023#32
    ∧ StandsAtPc resetting.beginStep (.full 0x0020A023#32)
    ∧ (∃ f, storeForm resetting (.sw 1#5 2#5 0#12) = some f ∧ f.ea = 0x0FFE#32 ∧ f.width = .word)
    ∧ (∃ u, resetting.beginStep.interrupted = .next u ∧ u.byteAt 0x1001#32 = 0xFF#8) :=
  ⟨by decide, by decide, by decide, by decide, resetting_stands, ⟨_, rfl, by decide, rfl⟩, ⟨_, rfl, by decide⟩⟩

-- R108, R114: the store that reset interrupts is two transfers
theorem test_reset_transfers : resetting.beginStep.transfers = [⟨0x0FFE#32, 2⟩, ⟨0x1000#32, 2⟩] := by decide

-- R114: with one transfer made, its bytes are new and those of the other one old
theorem test_reset_split_store :
    (match resetting.beginStep.interrupted with
    | .next u => some (Memory.takeOver u.mem ((resetting.beginStep.transfers.take 1).flatMap Part.addrs) resetting.mem)
    | .fault _ => none
    | .refused _ => none).map (fun m => [0x0FFE, 0x0FFF, 0x1000, 0x1001].map (Memory.readByte m))
      = some [0xFF#8, 0xFF#8, 0#8, 0#8] := by decide

-- R403, R404: reset wins over the instruction at pc
theorem test_reset_signal : stepped resetting (fun t => t.pc + t.reg 2#5) = some 0x80#32 := by
  decide

/-- The same step without the reset, and with a second write to the byte. -/
def agentWriting : State :=
  { resetting with inputs := [⟨Lines.low, [(0x2000#32, 0x11#8), (0x2000#32, 0x5A#8)], false⟩] }

/-- RAM below a CLINT whose timer is due; another agent sets `msip` and writes a byte of `mtimecmp`, then of RAM. -/
def agentClint : State :=
  { State.reset with
    cfg := { Config.standard with
      memMap := [⟨0#32, 0x01000000, .ram, Perms.all⟩, ⟨0x02000000#32, 0xC000, .clint, Perms.all⟩] }
    inputs := [⟨Lines.low, [(0x02000000#32, 0xFF#8), (0x02004001#32, 0x34#8), (0x1000#32, 0x77#8)], false⟩] }

theorem test_witness_StepInputs :
    (agentWriting.inputs = ⟨Lines.low, [(0x2000#32, 0x11#8), (0x2000#32, 0x5A#8)], false⟩ :: []
      ∧ agentWriting.input.writes = [(0x2000#32, 0x11#8)] ++ (0x2000#32, 0x5A#8) :: []
      ∧ regionAt agentWriting.cfg.memMap 0x2000#32 = some ⟨0#32, 0x100000000, .ram, Perms.all⟩
      ∧ Memory.wf agentWriting.mem = true ∧ agentWriting.cfg.sharedImemDmem = true
      ∧ (∀ r ∈ agentWriting.cfg.memMap, r.kind ≠ .clint) ∧ State.reset.inputs = [] ∧ State.reset.input.writes = [])
    ∧ ((∃ r ∈ agentClint.cfg.memMap, r.kind = .clint)
      ∧ agentClint.input.writes
        = [(0x02000000#32, 0xFF#8)] ++ (0x02004001#32, 0x34#8) :: [(0x1000#32, 0x77#8)]
      ∧ regionAt agentClint.cfg.memMap 0x02004001#32 = some ⟨0x02000000#32, 0xC000, .clint, Perms.all⟩
      ∧ (agentClint.clintByte 0x02004001#32).isSome = true ∧ (agentClint.clintByte 0x02000000#32).isSome = true
      ∧ regionAt agentClint.cfg.memMap 0x1000#32 = some ⟨0#32, 0x01000000, .ram, Perms.all⟩) :=
  ⟨⟨rfl, rfl, full_region _, by decide, rfl, by decide, rfl, rfl⟩,
    ⟨⟨_, List.mem_cons_of_mem _ List.mem_cons_self, rfl⟩, rfl, by decide, by decide, by decide, by decide⟩⟩

-- R124: the last write to a byte stands
theorem test_agent_last_write : agentWriting.beginStep.byteAt 0x2000#32 = 0x5A#8 := by decide

-- R124, R387: what another agent writes to the CLINT is there
theorem test_agent_clint : agentClint.beginStep.msip = true ∧ agentClint.beginStep.mtimecmp = 0x3400#64
    ∧ agentClint.beginStep.byteAt 0x1000#32 = 0x77#8 := by decide

theorem test_witness_StepKeepsInv : Inv withAddi ∧ (stepped withAddi State.pc).isSome = true where
  left :=
    { cfg := by decide, mem := by decide, imem := by decide, x0 := by decide, pc := by decide, mepc := by decide,
      savedMepc := by decide, dpc := by decide, mie := by decide, mtvec := by decide, mcountinhibit := by decide,
      mcause := fun _ => by decide, savedMcause := fun _ => by decide, tselect := by decide, triggers := by decide,
      hpm := by decide, debugPriv := by decide, debugAwake := by decide, log := by decide }
  right := by decide

theorem addi_stands : StandsAtPc withAddi (.full 0xFFF00093#32) := by
  intro i hi
  have : i < 4 := hi
  refine ⟨full_fetchable _ rfl rfl _, ?_⟩
  interval_cases i <;> decide

theorem cLi_stands : StandsAtPc withCLi (.half 0x4515#16) := by
  intro i hi
  have : i < 2 := hi
  refine ⟨full_fetchable _ rfl rfl _, ?_⟩
  interval_cases i <;> decide

theorem test_witness_StepRunsDecoded :
    (withAddi.input.reset = false ∧ withAddi.beginStep.staysAsleep = false ∧ withAddi.beginStep.awake.preempt = none ∧ withAddi.pc.getLsbD 0 = false
      ∧ Instr.wellFormed (.addi 1#5 0#5 0xFFF#12) = true ∧ StandsAtPc withAddi.beginStep (encode (.addi 1#5 0#5 0xFFF#12)))
    ∧ (withCLi.input.reset = false ∧ withCLi.beginStep.staysAsleep = false ∧ withCLi.beginStep.awake.preempt = none ∧ withCLi.pc.getLsbD 0 = false
      ∧ Instr.wellFormed (.cLi 10#5 5#6) = true ∧ StandsAtPc withCLi.beginStep (encode (.cLi 10#5 5#6))) :=
  ⟨⟨rfl, by decide, by decide, by decide, by decide, addi_stands⟩, rfl, by decide, by decide, by decide, by decide,
    cLi_stands⟩

/-- All ones, a 32-bit word no row matches, at pc. -/
def withOnes : State := State.reset.withFetchWord 32 0xFFFFFFFF

theorem test_witness_IllegalWordTraps :
    (TakesExceptions State.reset ∧ State.reset.pc.getLsbD 0 = false ∧ StandsAtPc State.reset (.half 0x0000#16)
      ∧ (0x0000#16).toNat % 4 ≠ 3 ∧ decode (.half 0x0000#16) = .error (.reservedParcel 0x0000#16))
    ∧ (TakesExceptions withOnes ∧ withOnes.pc.getLsbD 0 = false ∧ StandsAtPc withOnes (.full 0xFFFFFFFF#32)
      ∧ (0xFFFFFFFF#32).toNat % 4 = 3 ∧ ∃ e, decode (.full 0xFFFFFFFF#32) = .error e) := by
  refine ⟨⟨⟨rfl, rfl⟩, by decide, fun i hi => ⟨full_fetchable _ rfl rfl _, ?_⟩, by decide, by decide⟩, ⟨rfl, rfl⟩, by decide,
    fun i hi => ⟨full_fetchable _ rfl rfl _, ?_⟩, by decide, _, rfl⟩
  · have : i < 2 := hi
    interval_cases i <;> decide
  · have : i < 4 := hi
    interval_cases i <;> decide

/-- Two bytes of RAM at pc, holding the first parcel of a 32-bit instruction, and nothing else. -/
def twoBytes : State :=
  { State.reset with
    cfg := { Config.standard with memMap := [⟨0x80#32, 2, .ram, Perms.all⟩] }
    mem := [(0x80, 0x13#8)] }

/-- RAM that U-mode may read but not fetch, and a hart in U-mode. -/
def userNoFetch : State :=
  { State.reset with
    priv := .U
    cfg := { Config.standard with memMap := [⟨0#32, 0x1000, .ram, ⟨true, true, true, false, true, false⟩⟩] } }

theorem test_witness_FetchFaults :
    (TakesExceptions userNoFetch ∧ userNoFetch.pc.getLsbD 0 = false ∧ CannotFetch userNoFetch userNoFetch.pc)
    ∧ (TakesExceptions twoBytes ∧ twoBytes.pc.getLsbD 0 = false ∧ StandsAtPc twoBytes (.half 0x0013#16)
      ∧ (0x0013#16).toNat % 4 = 3 ∧ CannotFetch twoBytes (twoBytes.pc + 2#32)) := by
  refine ⟨⟨⟨rfl, rfl⟩, by decide, fun r hr => ?_⟩, ⟨rfl, rfl⟩, by decide, fun i hi => ?_, by decide, fun r hr => ?_⟩
  · cases (show some (Region.mk 0#32 0x1000 .ram ⟨true, true, true, false, true, false⟩) = some r from hr)
    rfl
  · have : i < 2 := hi
    interval_cases i <;> exact ⟨⟨⟨_, rfl, rfl, .inl rfl⟩, rfl⟩, rfl⟩
  · cases (show none = some r from hr)

theorem test_witness_ReadAfterWrite : Memory.wf withAddi.mem = true := by decide

/-- The registers that a statement about registers asks for exist: all on RV32I, x0..x15 on RV32E. -/
theorem test_witness_RegExists : RegExists State.reset 31#5 ∧ RegExists rv32e 15#5 ∧ RegExists rv32e 0#5
    ∧ ¬RegExists rv32e 16#5 :=
  ⟨.inl rfl, .inr (by decide), .inr (by decide), fun h => by rcases h with h | h <;> revert h <;> decide⟩

theorem test_witness_AddSubLogic : RegExists rv32e 15#5 ∧ RegExists rv32e 14#5 ∧ RegExists rv32e 0#5 :=
  ⟨.inr (by decide), .inr (by decide), .inr (by decide)⟩
theorem test_witness_RegisterShiftsCompares :
    (RegExists State.reset 31#5 ∧ RegExists State.reset 1#5 ∧ RegExists State.reset 2#5)
    ∧ (RegExists rv32e 15#5 ∧ RegExists rv32e 1#5 ∧ RegExists rv32e 2#5) :=
  ⟨⟨.inl rfl, .inl rfl, .inl rfl⟩, .inr (by decide), .inr (by decide), .inr (by decide)⟩
theorem test_witness_ImmediateArithmetic : RegExists rv32e 15#5 ∧ RegExists rv32e 0#5 :=
  ⟨.inr (by decide), .inr (by decide)⟩
theorem test_witness_ImmediateShiftsCompares : RegExists State.reset 31#5 ∧ RegExists State.reset 0#5 :=
  ⟨.inl rfl, .inl rfl⟩
theorem test_witness_UpperImmediates : RegExists rv32e 15#5 := .inr (by decide)
theorem test_witness_Multiply : RegExists State.reset 31#5 ∧ RegExists State.reset 30#5 ∧ RegExists State.reset 29#5 :=
  ⟨.inl rfl, .inl rfl, .inl rfl⟩
theorem test_witness_Divide : RegExists rv32e 15#5 ∧ RegExists rv32e 14#5 ∧ RegExists rv32e 13#5 :=
  ⟨.inr (by decide), .inr (by decide), .inr (by decide)⟩

theorem test_witness_DivisionLaw : (1#32 ≠ 0#32 ∧ ¬(0x80000000#32 = 0x80000000#32 ∧ 1#32 = 0xFFFFFFFF#32))
    ∧ ((0xFFFFFFFF#32 ≠ 0#32) ∧ ¬(0x80000001#32 = 0x80000000#32 ∧ 0xFFFFFFFF#32 = 0xFFFFFFFF#32)) := by decide

theorem test_witness_CompressedImmediates : RegExists rv32e 15#5 ∧ (15#5 ≠ 0#5 ∧ 15#5 ≠ 2#5 ∧ 0x3F#6 ≠ 0#6) :=
  ⟨.inr (by decide), by decide⟩
theorem test_witness_CompressedRegisters : RegExists State.reset 31#5 ∧ RegExists State.reset 1#5 := ⟨.inl rfl, .inl rfl⟩
theorem test_witness_Jumps : RegExists State.reset 1#5 ∧ RegExists State.reset 31#5 := ⟨.inl rfl, .inl rfl⟩
theorem test_witness_CompressedControl : RegExists rv32e 15#5 := .inr (by decide)
theorem test_witness_Branches : RegExists rv32e 0#5 ∧ RegExists rv32e 15#5 := ⟨.inr (by decide), .inr (by decide)⟩

/-- x1 = 2^32 - 2, so that a word access from it wraps around. -/
def nearTop : State := st 0x100#32 [(1#5, 0xFFFFFFFE#32), (2#5, 0x11223344#32)] [(0, 0x5A#8)]

theorem nearTop_cfg : nearTop.cfg = Config.standard := by decide

theorem test_witness_Loads : RegExists nearTop 31#5 ∧ RegExists nearTop 1#5 ∧ Readable nearTop (nearTop.effAddr 1#5 0#12) 1
    ∧ Readable nearTop (nearTop.effAddr 1#5 1#12) 2 ∧ Readable nearTop (nearTop.effAddr 1#5 0#12) 4 :=
  ⟨.inl rfl, .inl rfl, full_readable _ nearTop_cfg _ _, full_readable _ nearTop_cfg _ _, full_readable _ nearTop_cfg _ _⟩

theorem test_witness_CompressedLoads : RegExists nearTop 31#5
    ∧ Readable nearTop (BitVec.ofNat 32 ((nearTop.reg 2#5).toNat + 4 * (63#6).toNat)) 4
    ∧ Readable nearTop (BitVec.ofNat 32 ((nearTop.reg (creg 7#3)).toNat + 4 * (31#5).toNat)) 4 :=
  ⟨.inl rfl, full_readable _ nearTop_cfg _ _, full_readable _ nearTop_cfg _ _⟩

theorem test_witness_Stores : RegExists nearTop 1#5 ∧ RegExists nearTop 2#5 ∧ Memory.wf nearTop.mem = true
    ∧ Writable nearTop (nearTop.effAddr 1#5 0#12) 1 ∧ Writable nearTop (nearTop.effAddr 1#5 1#12) 2
    ∧ Writable nearTop (nearTop.effAddr 1#5 0#12) 4 :=
  ⟨.inl rfl, .inl rfl, by decide, full_writable _ nearTop_cfg _ _, full_writable _ nearTop_cfg _ _,
    full_writable _ nearTop_cfg _ _⟩

theorem test_witness_CompressedStores : Memory.wf nearTop.mem = true ∧ RegExists nearTop 31#5
    ∧ Writable nearTop (nearTop.reg (creg 7#3) + immCLw 31#5) 4 ∧ Writable nearTop (nearTop.reg 2#5 + immCSp 63#6) 4 :=
  ⟨by decide, .inl rfl, full_writable _ nearTop_cfg _ _, full_writable _ nearTop_cfg _ _⟩

/-- RAM from 0x1002 on; x8 = x2 = 0x1000. -/
def halfMapped : State :=
  { st 0x100#32 [(1#5, 0x1000#32), (2#5, 0x1000#32), (8#5, 0x1000#32)] [] with
    cfg := { Config.standard with memMap := [⟨0x1002#32, 0x100, .ram, Perms.all⟩] } }

theorem halfMapped_unmapped {a : Word} (h : regionAt halfMapped.cfg.memMap a = none) :
    CannotRead halfMapped a ∧ CannotWrite halfMapped a :=
  ⟨fun _ hr => (nomatch h.symm.trans hr), fun _ hr => (nomatch h.symm.trans hr)⟩

/-- A first part that faults, aligned and not. -/
theorem test_witness_LoadFaults : TakesExceptions halfMapped
    ∧ (RegsExist halfMapped (.lw 31#5 1#5 0#12)
      ∧ (∃ f, loadForm halfMapped (.lw 31#5 1#5 0#12) = some f ∧ f.ea = 0x1000#32 ∧ f.width = .word)
      ∧ splitAccess .twoCycles 0x1000#32 .word = [] ++ ⟨0x1000#32, 4⟩ :: [] ∧ CannotRead halfMapped 0x1000#32)
    ∧ (RegsExist halfMapped (.cLwsp 31#5 0#6)
      ∧ ∃ f, loadForm halfMapped (.cLwsp 31#5 0#6) = some f ∧ f.ea = 0x1000#32 ∧ f.width = .word) := by
  refine ⟨⟨by decide, by decide⟩, ⟨fun _ _ => .inl (by decide), ⟨_, rfl, by decide, rfl⟩, by decide,
    (halfMapped_unmapped (by decide)).1⟩, fun _ _ => .inl (by decide), _, rfl, by decide, rfl⟩

/-- The last byte of RAM at 0x1101: a word access at 0x10FF reads three bytes and faults on the part at 0x1102. -/
theorem test_witness_LoadFaults_later :
    splitAccess .byteHalf 0x10FF#32 .word = [⟨0x10FF#32, 1⟩, ⟨0x1100#32, 2⟩] ++ ⟨0x1102#32, 1⟩ :: []
    ∧ ¬CannotRead halfMapped 0x10FF#32 ∧ ¬CannotRead halfMapped 0x1100#32 ∧ CannotRead halfMapped 0x1102#32 := by
  refine ⟨by decide, fun h => ?_, fun h => ?_, (halfMapped_unmapped (by decide)).1⟩
  · exact absurd (h ⟨0x1002#32, 0x100, .ram, Perms.all⟩ (by decide)) (by decide)
  · exact absurd (h ⟨0x1002#32, 0x100, .ram, Perms.all⟩ (by decide)) (by decide)

-- R108, R369: the load names the part that faults
theorem test_load_later_part : after (.lw 31#5 1#5 0xFF#12)
    { halfMapped with cfg := { halfMapped.cfg with misalignedSplit := .byteHalf } } (fun t => t.mtval + t.reg 31#5)
    = some 0x1102#32 := by
  decide

/-- ROM below RAM; MPRV makes data accesses user ones, and U-mode may not write the RAM. -/
def romMapped : State :=
  { st 0x100#32 [(1#5, 0x1000#32), (2#5, 0x2000#32)] [] with
    cfg := { Config.standard with
      memMap := [⟨0#32, 0x2000, .rom, Perms.all⟩, ⟨0x2000#32, 0x1000, .ram, ⟨true, true, true, true, true, false⟩⟩] }
    mstatus := ⟨false, true, .U, true, false⟩ }

theorem test_witness_StoreFaults : (TakesExceptions romMapped ∧ Memory.wf romMapped.mem = true)
    ∧ (RegsExist romMapped (.sw 1#5 2#5 0#12)
      ∧ (∃ f, storeForm romMapped (.sw 1#5 2#5 0#12) = some f ∧ f.ea = 0x1000#32 ∧ f.width = .word)
      ∧ splitAccess .twoCycles 0x1000#32 .word = [] ++ ⟨0x1000#32, 4⟩ :: [] ∧ CannotWrite romMapped 0x1000#32)
    ∧ (RegsExist romMapped (.cSwsp 31#5 0#6)
      ∧ (∃ f, storeForm romMapped (.cSwsp 31#5 0#6) = some f ∧ f.ea = 0x2000#32 ∧ f.width = .word)
      ∧ CannotWrite romMapped 0x2000#32)
    ∧ (splitAccess .twoCycles 0x10FF#32 .word = [⟨0x10FF#32, 1⟩] ++ ⟨0x1100#32, 3⟩ :: []
      ∧ splitAccess .twoCycles 0x1100#32 .word = [] ++ ⟨0x1100#32, 4⟩ :: [] ∧ ¬CannotWrite halfMapped 0x10FF#32) := by
  refine ⟨⟨⟨by decide, by decide⟩, by decide⟩, ⟨fun _ _ => .inl (by decide), ⟨_, rfl, by decide, rfl⟩, by decide,
    fun r hr => ?_⟩, ⟨fun _ _ => .inl (by decide), ⟨_, rfl, by decide, rfl⟩, fun r hr => ?_⟩, by decide, by decide,
    fun h => ?_⟩
  · cases (show some (Region.mk 0#32 0x2000 .rom Perms.all) = some r from hr)
    exact .inr rfl
  · cases (show some (Region.mk 0x2000#32 0x1000 .ram ⟨true, true, true, true, true, false⟩) = some r from hr)
    exact .inl (by decide)
  · rcases h ⟨0x1002#32, 0x100, .ram, Perms.all⟩ (by decide) with h' | h' <;> revert h' <;> decide

-- R116, R120: MPRV and MPP = U make the store a user's, and the region refuses it
theorem test_store_mprv : after (.sw 2#5 1#5 0#12) romMapped (fun t => t.readCsr .mcause + t.mtval)
    = some 0x2007#32 := by
  decide

/-- A CLINT region at its default place; x1 points to `msip`, x3 to `mtimecmp`, x4 past `mtime`. -/
def clintMapped : State :=
  { st 0x100#32 [(1#5, 0x02000000#32), (2#5, 1#32), (3#5, 0x02004000#32), (4#5, 0x0200C000#32)] [] with
    cfg := { Config.standard with memMap := [⟨0x02000000#32, 0xC000, .clint, Perms.all⟩] } }

/-- The same region, reached by the compressed forms: x2 and x8 point to `mtimecmp`. -/
def clintCompressed : State :=
  { st 0x100#32 [(2#5, 0x02004000#32), (8#5, 0x02004000#32), (9#5, 7#32)] [] with cfg := clintMapped.cfg }

/-- A store and a load at each register's words, by 32-bit and 16-bit forms, and at a word with no register. -/
theorem test_witness_ClintRegisters :
    (RegsExist clintMapped (.sw 1#5 2#5 0#12) ∧ RegsExist clintMapped (.lw 2#5 1#5 0#12)
      ∧ RegsExist clintCompressed (.cSw 0#3 1#3 1#5) ∧ RegsExist clintCompressed (.cSwsp 9#5 1#6)
      ∧ RegsExist clintCompressed (.cLw 1#3 0#3 1#5) ∧ RegsExist clintCompressed (.cLwsp 9#5 1#6))
    ∧ (∃ f, storeForm clintMapped (.sw 1#5 2#5 0#12) = some f ∧ f.width = .word
      ∧ f.ea = Config.clintMsip clintMapped.cfg)
    ∧ (∃ f, storeForm clintCompressed (.cSw 0#3 1#3 1#5) = some f ∧ f.width = .word
      ∧ f.ea = Config.clintMtimecmp clintCompressed.cfg + BitVec.ofNat 32 (4 * 1))
    ∧ (∃ f, storeForm clintCompressed (.cSwsp 9#5 1#6) = some f ∧ f.width = .word ∧ f.ea = 0x02004004#32)
    ∧ (∃ f, storeForm clintMapped (.sw 4#5 2#5 0xFF8#12) = some f ∧ f.width = .word
      ∧ f.ea = Config.clintMtime clintMapped.cfg + BitVec.ofNat 32 (4 * 0))
    ∧ (∃ f, storeForm clintMapped (.sw 3#5 2#5 8#12) = some f ∧ f.width = .word ∧ f.ea = 0x02004008#32)
    ∧ (∃ f, loadForm clintMapped (.lw 2#5 1#5 0#12) = some f ∧ f.width = .word
      ∧ f.ea = Config.clintMsip clintMapped.cfg)
    ∧ (∃ f, loadForm clintCompressed (.cLw 1#3 0#3 1#5) = some f ∧ f.width = .word
      ∧ f.ea = Config.clintMtimecmp clintCompressed.cfg + BitVec.ofNat 32 (4 * 1))
    ∧ (∃ f, loadForm clintCompressed (.cLwsp 9#5 1#6) = some f ∧ f.width = .word ∧ f.ea = 0x02004004#32)
    ∧ (∃ f, loadForm clintMapped (.lw 2#5 4#5 0xFFC#12) = some f ∧ f.width = .word
      ∧ f.ea = Config.clintMtime clintMapped.cfg + BitVec.ofNat 32 (4 * 1)) :=
  ⟨⟨fun _ _ => .inl rfl, fun _ _ => .inl rfl, fun _ _ => .inl rfl, fun _ _ => .inl rfl, fun _ _ => .inl rfl,
      fun _ _ => .inl rfl⟩,
    ⟨_, rfl, rfl, by decide⟩, ⟨_, rfl, rfl, by decide⟩, ⟨_, rfl, rfl, by decide⟩, ⟨_, rfl, rfl, by decide⟩,
    ⟨_, rfl, rfl, by decide⟩, ⟨_, rfl, rfl, by decide⟩, ⟨_, rfl, rfl, by decide⟩, ⟨_, rfl, rfl, by decide⟩,
    ⟨_, rfl, rfl, by decide⟩⟩

/-- What the words of `test_witness_ClintRegisters` meet besides. -/
theorem test_witness_ClintRegisters_words :
    (∀ ea ∈ [0x02000000#32, 0x02004004#32, 0x0200BFF8#32, 0x0200BFFC#32, 0x02004008#32],
      ea.toNat % 4 = 0
        ∧ regionAt clintMapped.cfg.memMap ea = some ⟨0x02000000#32, 0xC000, .clint, Perms.all⟩)
    ∧ (∀ k < 4, 4 ≤ (0x02004004#32 + BitVec.ofNat 32 k - Config.clintMsip clintMapped.cfg).toNat)
    ∧ (∀ ea ∈ [0x0200BFF8#32, 0x0200BFFC#32], ∀ k < 4,
      4 ≤ (ea + BitVec.ofNat 32 k - Config.clintMsip clintMapped.cfg).toNat
        ∧ 8 ≤ (ea + BitVec.ofNat 32 k - Config.clintMtimecmp clintMapped.cfg).toNat)
    ∧ (∀ k < 4, clintMapped.clintByte (0x02004008#32 + BitVec.ofNat 32 k) = none)
    ∧ mayWrite clintMapped ⟨0x02000000#32, 0xC000, .clint, Perms.all⟩ = true
    ∧ mayRead clintMapped ⟨0x02000000#32, 0xC000, .clint, Perms.all⟩ = true :=
  ⟨fun ea h => (by fin_cases h <;> decide), by decide, fun ea h => (by fin_cases h <;> decide), by decide, by decide,
    by decide⟩

-- R283, R387: C.SW to the high word of mtimecmp
theorem test_clint_csw : after (.cSw 0#3 1#3 1#5) clintCompressed (fun t => highHalf t.mtimecmp) = some 7#32 := by
  decide

-- R387: the high word of mtimecmp
theorem test_clint_mtimecmp : after (.sw 3#5 2#5 4#12) clintMapped (fun t => t.readCsr .mcause + highHalf t.mtimecmp)
    = some 1#32 := by decide

-- R387: a store of 1 to msip sets it
theorem test_clint_msip : after (.sw 1#5 2#5 0#12) clintMapped (fun t => boolWord t.msip) = some 1#32 := by decide

theorem test_witness_FetchCoherence : State.reset.cfg.sharedImemDmem = true ∧ State.reset.stale = [] := by decide

theorem test_witness_EcallTraps : TakesExceptions State.reset ∧ TakesExceptions { State.reset with priv := .U } :=
  ⟨⟨rfl, rfl⟩, rfl, rfl⟩

/-- U-mode with `dcsr.ebreaku` set. -/
def userEbreak : State := { State.reset with priv := .U, dcsr := ⟨false, true, false, 0#3, false, .M⟩ }

theorem test_witness_EbreakTraps :
    (TakesExceptions userEbreak ∧ userEbreak.priv = .U ∧ userEbreak.dcsr.ebreaku = true)
    ∧ (TakesExceptions State.reset ∧ ¬((State.reset.priv = .M ∧ State.reset.dcsr.ebreakm = true)
      ∨ (State.reset.priv = .U ∧ State.reset.dcsr.ebreaku = true))) := by
  exact ⟨⟨⟨rfl, rfl⟩, rfl, rfl⟩, ⟨rfl, rfl⟩, by decide⟩

theorem test_witness_MretReturns : (State.reset.debugMode = false ∧ State.reset.priv = .M)
    ∧ (State.reset.takeNmi.debugMode = false ∧ State.reset.takeNmi.priv = .M ∧ State.reset.takeNmi.inNmi = true)
    ∧ (userEbreak.debugMode = false ∧ userEbreak.priv = .U ∧ userEbreak.inNmi = false) := by decide

theorem test_witness_NmiTransparent : userEbreak.debugMode = false ∧ userEbreak.inNmi = false
    ∧ userEbreak.pc.getLsbD 0 = false := by decide

/-- U-mode with `mstatus.TW` set. -/
def userTw : State := { State.reset with priv := .U, mstatus := ⟨false, true, .U, false, true⟩ }

theorem test_witness_WfiRetires : ¬(State.reset.priv = .U ∧ State.reset.mstatus.tw = true)
    ∧ ¬(userEbreak.priv = .U ∧ userEbreak.mstatus.tw = true)
    ∧ (userTw.priv = .U ∧ userTw.mstatus.tw = true ∧ TakesExceptions userTw) :=
  ⟨by decide, by decide, rfl, rfl, rfl, rfl⟩

/-- Asleep, with a pending interrupt that is not enabled. -/
def asleep : State :=
  { State.reset with wfiSleep := true, mie := 0x8#32, lines := ⟨false, true, false, 0#16, false, false⟩ }

theorem test_witness_WfiSleeps : asleep.wfiSleep = true ∧ asleep.input.reset = false ∧ asleep.sampledLines.nmi = false
    ∧ asleep.sampledLines.debugReq = false ∧ asleep.beginStep.mip &&& asleep.mie = 0#32 := by decide

/-- In Debug mode. -/
def debugging : State := { State.reset with debugMode := true }

theorem test_witness_DretReturns : debugging.debugMode = true ∧ TakesExceptions State.reset := ⟨rfl, rfl, rfl⟩


/-- Address 0 is a device. -/
def deviceMapped : State :=
  { State.reset with cfg := { Config.standard with memMap := [⟨0#32, 0x100, .device, Perms.all⟩] } }

/-- RAM at pc with the first parcel of a 32-bit instruction, a device after it. -/
def deviceAfter : State :=
  { twoBytes with
    cfg := { Config.standard with memMap := [⟨0x80#32, 2, .ram, Perms.all⟩, ⟨0x82#32, 2, .device, Perms.all⟩] } }

theorem test_witness_StopsByName : (debugging.debugMode = true
      ∧ (State.reset.takeNmi.debugMode = false ∧ State.reset.takeNmi.inNmi = true)
      ∧ (deviceMapped.pc.getLsbD 0 = false
        ∧ regionAt (Config.fetchMap deviceMapped.cfg) deviceMapped.pc = some ⟨0#32, 0x100, .device, Perms.all⟩
        ∧ mayFetch deviceMapped ⟨0#32, 0x100, .device, Perms.all⟩ = true))
    ∧ (deviceAfter.pc.getLsbD 0 = false ∧ StandsAtPc deviceAfter (.half 0x0013#16) ∧ (0x0013#16).toNat % 4 = 3
      ∧ regionAt (Config.fetchMap deviceAfter.cfg) (deviceAfter.pc + 2#32) = some ⟨0x82#32, 2, .device, Perms.all⟩
      ∧ mayFetch deviceAfter ⟨0x82#32, 2, .device, Perms.all⟩ = true) := by
  refine ⟨by decide, by decide, fun i hi => ?_, by decide, by decide, by decide⟩
  have : i < 2 := hi
  interval_cases i <;> exact ⟨⟨⟨_, rfl, rfl, .inl rfl⟩, rfl⟩, rfl⟩

theorem deviceMapped_at {a : Word} (h : regionAt deviceMapped.cfg.memMap a = some ⟨0#32, 0x100, .device, Perms.all⟩) :
    deviceAt deviceMapped a = true ∧ ¬CannotRead deviceMapped a ∧ ¬CannotWrite deviceMapped a := by
  refine ⟨by rw [deviceAt, h]; rfl, fun hr => ?_, fun hw => ?_⟩
  · exact absurd (hr _ h) (by decide)
  · rcases hw _ h with h' | h' <;> revert h' <;> decide

/-- A misaligned access in two parts, and a single byte. -/
theorem test_witness_DeviceAccesses : RegsExist deviceMapped (.lw 31#5 1#5 3#12) ∧ RegsExist deviceMapped (.sb 1#5 2#5 0xFF#12)
    ∧ (∃ f, loadForm deviceMapped (.lw 31#5 1#5 3#12) = some f ∧ f.ea = 3#32 ∧ f.width = .word)
    ∧ (∃ f, storeForm deviceMapped (.sb 1#5 2#5 0xFF#12) = some f ∧ f.ea = 0xFF#32 ∧ f.width = .byte)
    ∧ (∀ p ∈ splitAccess .twoCycles 3#32 .word, deviceAt deviceMapped p.addr = true ∧ ¬CannotRead deviceMapped p.addr)
    ∧ (∀ p ∈ splitAccess .twoCycles 0xFF#32 .byte,
        deviceAt deviceMapped p.addr = true ∧ ¬CannotWrite deviceMapped p.addr) := by
  refine ⟨fun _ _ => .inl rfl, fun _ _ => .inl rfl, ⟨_, rfl, by decide, rfl⟩, ⟨_, rfl, by decide, rfl⟩, ?_, ?_⟩
  · intro p hp
    have : p = ⟨3#32, 1⟩ ∨ p = ⟨4#32, 3⟩ := by
      rw [show splitAccess .twoCycles 3#32 .word = [⟨3#32, 1⟩, ⟨4#32, 3⟩] by decide] at hp
      simpa using hp
    rcases this with rfl | rfl <;> exact ⟨(deviceMapped_at (by decide)).1, (deviceMapped_at (by decide)).2.1⟩
  · intro p hp
    have : p = ⟨0xFF#32, 1⟩ := by simpa [splitAccess] using hp
    subst this
    exact ⟨(deviceMapped_at (by decide)).1, (deviceMapped_at (by decide)).2.2⟩

-- R115, R240: a load into x0 still reads the device, once for each part, and retires
theorem test_device_read : (match exec (.lw 0#5 1#5 3#12) deviceMapped with
    | .next t => some (t.device, t.pc)
    | .fault _ => none
    | .refused _ => none) = some ([.read 4#32 3, .read 3#32 1], 0x84#32) := by decide

-- R355: the device part before the part that faults has been read
theorem test_device_read_before_fault : (match exec (.lh 31#5 1#5 0xFF#12) deviceMapped with
    | .next t => some (t.device, t.mtval)
    | .fault _ => none
    | .refused _ => none) = some ([.read 0xFF#32 1], 0x100#32) := by decide

/-- An allowed access of each kind: a write in M-mode, reads of a read-only register and of a user counter, the two
ends of the Debug-mode registers. -/
theorem test_witness_CsrInstructions :
    (csrOf 0x300#12 = some .mstatus ∧ RegExists State.reset 31#5 ∧ CsrAllowed State.reset 0x300#12 true)
    ∧ (csrOf 0xF14#12 = some .mhartid ∧ CsrAllowed State.reset 0xF14#12 false)
    ∧ (csrOf 0xC82#12 = some .instreth ∧ CsrAllowed userEbreak 0xC82#12 false)
    ∧ (csrOf 0x7B0#12 = some .dcsr ∧ CsrAllowed debugging 0x7B0#12 true)
    ∧ (csrOf 0x7B3#12 = some .dscratch1 ∧ CsrAllowed debugging 0x7B3#12 true) := by
  refine ⟨⟨by decide, .inl rfl, ?_⟩, ⟨by decide, ?_⟩, ⟨by decide, ?_⟩, ⟨by decide, ?_⟩, by decide, ?_⟩ <;>
    (unfold CsrAllowed; decide)

theorem test_witness_CsrDeniedTraps : TakesExceptions State.reset ∧ RegExists State.reset 31#5 ∧ csrOf 0x7B4#12 = none
    ∧ csrOf 0x32D#12 = none ∧ ¬CsrAllowed State.reset 0xF11#12 true ∧ ¬CsrAllowed State.reset 0x7B0#12 false
    ∧ ¬CsrAllowed State.reset 0x7B3#12 false ∧ (TakesExceptions userEbreak ∧ ¬CsrAllowed userEbreak 0x300#12 false) := by
  refine ⟨⟨rfl, rfl⟩, .inl rfl, by decide, by decide, ?_, ?_, ?_, ⟨rfl, rfl⟩, ?_⟩ <;> (unfold CsrAllowed; decide)

theorem test_witness_CsrWriteMasks : 2 ≤ State.reset.cfg.mtvecBaseAlign ∧ State.reset.cfg.mtvecBaseAlign ≤ 31
    ∧ 0x80000020#32 ∈ [0#32, 0x80000020#32]
    ∧ (∀ n ∈ [16, 31], State.reset.cfg.customIrqMask.getLsbD (n - 16) = true) := by decide

theorem test_witness_CounterAndDebugWrites : 32 ≤ State.reset.cfg.hpmWidth ∧ State.reset.cfg.hpmWidth ≤ 64
    ∧ (0xFFFFFFFC#32).toNat % 4 = 0 ∧ (0xFFFFFFFF#32).toNat % 4 = 3 ∧ State.reset.debugMode = false
    ∧ debugging.debugMode = true ∧ debugging.tselect.toNat < debugging.triggers.length := by decide

theorem test_witness_CsrWriteFrame : (∀ k : Fin 10, State.reset.hpmcounters[k] &&& ~~~(Config.hpmMask State.reset.cfg) = 0#64)
    ∧ ¬Csr.reflects .mcycle .mcycleh ∧ ¬Csr.reflects (.mhpmcounter 9) (.mhpmcounterh 9) :=
  ⟨by decide, by unfold Csr.reflects; decide, by unfold Csr.reflects; decide⟩

theorem test_witness_CounterShadows : RegExists State.reset 31#5 ∧ State.reset.priv = .M
    ∧ (userEbreak.priv = .U ∧ userEbreak.cfg.uCounterAccess = true) := ⟨.inl rfl, rfl, rfl, rfl⟩

/-- U-mode with an addi at pc. -/
def userAddi : State := { withAddi with priv := .U }

theorem test_witness_StepCounting : (userAddi.priv = .U ∧ userAddi.debugMode = false ∧ userAddi.input.reset = false
      ∧ (stepped userAddi State.pc).isSome = true)
    ∧ (after (.addi 1#5 0#5 0xFFF#12) withAddi.beginStep.awake (fun t => boolWord t.log.retired) = some 1#32) := by
  decide

/-- Steps that run no instruction, or one that does not retire: asleep, an NMI, and a fetch of nothing legal. -/
theorem test_witness_StepCounting_none : asleep.beginStep.staysAsleep = true
    ∧ (irq ⟨false, false, false, 0#16, true, false⟩ 0#32 0#32).beginStep.awake.preempt.isSome = true
    ∧ (∃ u, State.reset.beginStep.awake.runInstr = .next u ∧ u.log.retired = false)
    ∧ (stepped asleep State.pc).isSome = true ∧ (stepped State.reset State.pc).isSome = true
    ∧ State.reset.input.reset = false ∧ asleep.input.reset = false :=
  ⟨by decide, by decide, ⟨_, rfl, rfl⟩, by decide, by decide, rfl, rfl⟩

/-- Exactly interrupt line n is high, and enabled. -/
def oneLine (n : Nat) : State :=
  irq ⟨n == 3, n == 7, n == 11, BitVec.ofNat 16 (2 ^ n / 65536), false, false⟩ (BitVec.ofNat 32 (2 ^ n)) 0x100#32

/-- Each interrupt alone is the first of those pending and enabled; and 16 is the first of all. -/
theorem test_witness_InterruptTaken : ∀ n ∈ [3, 7, 11, 16, 31],
    (oneLine n).input.reset = false ∧ (oneLine n).debugMode = false ∧ (oneLine n).inNmi = false ∧ (oneLine n).dcsr.step = false
      ∧ (oneLine n).sampledLines.debugReq = false ∧ (oneLine n).sampledLines.nmi = false
      ∧ (oneLine n).mstatus.mie = true ∧ IsInterrupt n ∧ PendingEnabled (oneLine n).beginStep n
      ∧ ∀ m : Nat, IsInterrupt m → PendingEnabled (oneLine n).beginStep m → interruptRank n ≤ interruptRank m := by
  intro n hn
  have hm : ∀ n ∈ [3, 7, 11, 16, 31], ∀ m ∈ List.range 32,
      (oneLine n).beginStep.mip.getLsbD m = true → m = n := by decide
  refine ⟨rfl, rfl, rfl, rfl, rfl, rfl, rfl, ?_, ?_, fun m h1 h2 => ?_⟩
  · revert n hn
    unfold IsInterrupt
    decide
  · revert n hn
    unfold PendingEnabled
    decide
  · have : m ∈ List.range 32 := by
      rw [List.mem_range]
      rcases h1 with h | h | h | h <;> omega
    rw [hm n hn m this h2.1]

theorem test_witness_NmiTaken : (irq ⟨false, false, false, 0#16, true, false⟩ 0#32 0#32).input.reset = false
    ∧ (irq ⟨false, false, false, 0#16, true, false⟩ 0#32 0#32).debugMode = false
    ∧ (irq ⟨false, false, false, 0#16, true, false⟩ 0#32 0#32).inNmi = false
    ∧ (irq ⟨false, false, false, 0#16, true, false⟩ 0#32 0#32).dcsr.step = false
    ∧ (irq ⟨false, false, false, 0#16, true, false⟩ 0#32 0#32).sampledLines.debugReq = false
    ∧ (irq ⟨false, false, false, 0#16, true, false⟩ 0#32 0#32).sampledLines.nmi = true := by decide

/-- The timer line high and enabled, MIE clear, in M-mode. -/
def maskedTimer : State :=
  { State.reset with mie := 0x80#32, lines := ⟨false, true, false, 0#16, false, false⟩ }

theorem test_witness_InterruptsMasked :
    (State.reset.lines.debugReq = false ∧ State.reset.lines.nmi = false ∧ State.reset.triggerHit = false
      ∧ State.reset.mip &&& State.reset.mie = 0#32)
    ∧ (maskedTimer.lines.debugReq = false ∧ maskedTimer.lines.nmi = false ∧ maskedTimer.triggerHit = false
      ∧ maskedTimer.priv = .M ∧ maskedTimer.mstatus.mie = false)
    ∧ (maskedTimer.takeNmi.lines.debugReq = false ∧ maskedTimer.takeNmi.inNmi = true
      ∧ maskedTimer.takeNmi.triggerHit = false) := by decide

/-- A trigger armed at pc. -/
def armed : State := { State.reset with triggers := [⟨true, 0x80#32⟩] }

theorem test_witness_DebugEntries :
    ({ State.reset with lines := ⟨false, false, false, 0#16, false, true⟩ }).lines.debugReq = true
    ∧ (armed.debugMode = false ∧ armed.lines.debugReq = false ∧ armed.lines.nmi = false
      ∧ armed.mip &&& armed.mie = 0#32 ∧ ∃ k ∈ armed.triggers, k.execute = true ∧ k.address = armed.pc) := by decide

theorem test_witness_MissingRegisterTraps : TakesExceptions rv32e ∧ 16#5 ∈ usedRegs (.lw 16#5 0#5 0#12)
    ∧ ¬RegExists rv32e 16#5 ∧ (31#5 ∈ usedRegs (.cSwsp 31#5 0#6) ∧ ¬RegExists rv32e 31#5) :=
  ⟨⟨rfl, rfl⟩, by decide, fun h => by rcases h with h | h <;> revert h <;> decide, by decide,
    fun h => by rcases h with h | h <;> revert h <;> decide⟩

/-- A U-mode instruction that stays in U-mode, and one that leaves it by a trap. -/
theorem test_witness_UserModeConfined : userEbreak.priv = .U ∧ userEbreak.debugMode = false
    ∧ (regAfter (.addi 1#5 0#5 1#12) userEbreak 1#5).isSome = true ∧ (pcAfter .ecall userEbreak).isSome = true := by decide

/-- A load that faults does not retire, and neither does an ECALL. -/
theorem test_witness_PreciseTraps :
    after (.lw 31#5 1#5 0#12) halfMapped (fun t => boolWord t.log.retired) = some 0#32
    ∧ after .ecall State.reset (fun t => boolWord t.log.retired) = some 0#32 := by decide


end Sys2Proof.Tests
end

/-! What a step begins with (O13): the lines, and the bytes that other agents have written. -/

namespace Sys2Proof.Machine

open Sys2Proof

/-! ### One byte that another agent writes -/

/-- One write of another agent, answered as the memory map says (assumption 29). -/
def State.agentWrite (s : State) (w : Word × Byte) : State := s.writeBusByte (s.agentAnswer w.1) w.1 w.2

/-- All that a step can see of one address is as before: its byte of memory, its byte of the CLINT, and what may still
be fetched of it. -/
def SameAt (a : Word) (s t : State) : Prop :=
  t.byteAt a = s.byteAt a ∧ t.clintByte a = s.clintByte a ∧ t.staleAt a = s.staleAt a

theorem SameAt.trans {a : Word} {s t u : State} (h1 : SameAt a s t) (h2 : SameAt a t u) : SameAt a s u := by
  obtain ⟨hbyte, hclint, hstale⟩ := h1
  obtain ⟨hbyte', hclint', hstale'⟩ := h2
  exact ⟨hbyte'.trans hbyte, hclint'.trans hclint, hstale'.trans hstale⟩

/-- A write is answered as its region's kind says; one to `rom`, as one to no region, is an error. -/
theorem State.agentAnswer_eq_iff {s : State} {a : Word} {k : RegionKind} (hk : k ≠ .rom) :
    s.agentAnswer a = RegionKind.answer k ↔ ∃ r, regionAt s.cfg.memMap a = some r ∧ r.kind = k := by
  unfold State.agentAnswer
  cases regionAt s.cfg.memMap a with
  | none => cases k <;> simp [RegionKind.answer] at hk ⊢
  | some r => cases hr : r.kind <;> cases k <;> simp [hr, RegionKind.answer] at hk ⊢

/-- Plain memory takes the writes to `ram` and no others. -/
theorem State.agentAnswer_eq_memory {s : State} {a : Word} :
    s.agentAnswer a = .memory ↔ ∃ r, regionAt s.cfg.memMap a = some r ∧ r.kind = .ram :=
  State.agentAnswer_eq_iff (k := .ram) (by decide)

/-- The CLINT takes the writes to its own regions and no others. -/
theorem State.agentAnswer_eq_clint {s : State} {a : Word} :
    s.agentAnswer a = .clint ↔ ∃ r, regionAt s.cfg.memMap a = some r ∧ r.kind = .clint :=
  State.agentAnswer_eq_iff (k := .clint) (by decide)

theorem State.agentAnswer_congr {s t : State} (h : t.cfg = s.cfg) (a : Word) : t.agentAnswer a = s.agentAnswer a := by
  unfold State.agentAnswer
  rw [h]

theorem State.agentWrite_of_memory {s : State} {a : Word} (v : Byte) (h : s.agentAnswer a = .memory) :
    s.agentWrite (a, v) = s.storeByte a v := by
  simp [State.agentWrite, h, State.writeBusByte]

theorem State.agentWrite_of_clint {s : State} {a : Word} (v : Byte) (h : s.agentAnswer a = .clint) :
    s.agentWrite (a, v) = s.storeClintByte a v := by
  simp [State.agentWrite, h, State.writeBusByte]

@[simp] theorem State.agentWrite_cfg (s : State) (w : Word × Byte) : (s.agentWrite w).cfg = s.cfg := by
  unfold State.agentWrite
  rw [(s.writeBusByte_bus _ _ _).1]

theorem State.agentWrite_sameAt (s : State) {w : Word × Byte} {a : Word} (h : w.1 ≠ a) : SameAt a s (s.agentWrite w) :=
  s.writeBusByte_other _ _ _ _ h

/-- Only plain memory's own writes change it. -/
theorem State.writeBusByte_mem_of_ne (s : State) {ans : Answer} (a : Word) (v : Byte) (h : ans ≠ .memory) :
    (s.writeBusByte ans a v).mem = s.mem := by
  cases ans with
  | memory => exact absurd rfl h
  | clint => exact (s.storeClintByte_bus a v).2.1
  | device => rfl
  | busError => rfl

/-- Only the CLINT's own writes change its registers. -/
theorem State.writeBusByte_clint_of_ne (s : State) {ans : Answer} (a : Word) (v : Byte) (h : ans ≠ .clint) :
    (s.writeBusByte ans a v).msip = s.msip ∧ (s.writeBusByte ans a v).mtimecmp = s.mtimecmp
      ∧ (s.writeBusByte ans a v).mtime = s.mtime := by
  cases ans with
  | clint => exact absurd rfl h
  | memory => exact ⟨rfl, rfl, rfl⟩
  | device => exact ⟨rfl, rfl, rfl⟩
  | busError => exact ⟨rfl, rfl, rfl⟩

/-- 20_memory R127: with separate instruction memory no data write makes a byte stale. -/
theorem State.writeBusByte_stale_of_not_shared (s : State) (ans : Answer) (a : Word) (v : Byte)
    (h : s.cfg.sharedImemDmem = false) : (s.writeBusByte ans a v).stale = s.stale := by
  cases ans with
  | memory => simp [State.writeBusByte, h]
  | clint =>
    simp only [State.writeBusByte, State.storeClintByte]
    split <;> simp [h]
  | device => rfl
  | busError => rfl

/-- A write to the bus gives no address a register of the CLINT and takes none away. -/
theorem State.writeBusByte_clintByte_isSome (s : State) (ans : Answer) (b : Word) (v : Byte) {a : Word}
    (h : (s.clintByte a).isSome = true) : ((s.writeBusByte ans b v).clintByte a).isSome = true := by
  cases ans with
  | clint =>
    simp only [State.writeBusByte, State.clintByte_storeClintByte]
    split
    · rfl
    · exact h
  | memory => exact h
  | device => exact h
  | busError => exact h

theorem State.mem_staleAt {s : State} {a : Word} {b : Byte} : b ∈ s.staleAt a ↔ (a.toNat, b) ∈ s.stale := by
  simp [State.staleAt]

/-- 20_memory R127: what was there, or might be fetched, before a store may still be fetched after it. -/
theorem State.mem_staleAt_storeByte {s : State} {a : Word} {b : Byte} (hs : s.cfg.sharedImemDmem = true)
    (h : b = s.byteAt a ∨ b ∈ s.staleAt a) (v : Byte) : b ∈ (s.storeByte a v).staleAt a := by
  rw [State.mem_staleAt, State.storeByte_stale, if_pos hs]
  rcases h with rfl | h
  · unfold noteStale
    split
    · assumption
    · exact List.mem_cons_self
  · exact noteStale_keeps _ _ _ _ (State.mem_staleAt.mp h)

/-! ### A list of such writes -/

/-- What holds before the writes of a list and is kept by each of them holds after them all; the configuration stays
the same throughout. -/
theorem State.foldl_agentWrite_induction {P : State → Prop} {s : State} {l : List (Word × Byte)} (h0 : P s)
    (hstep : ∀ t : State, t.cfg = s.cfg → P t → ∀ w ∈ l, P (t.agentWrite w)) :
    P (l.foldl State.agentWrite s) ∧ (l.foldl State.agentWrite s).cfg = s.cfg :=
  List.foldlRecOn (motive := fun t => P t ∧ t.cfg = s.cfg) l State.agentWrite ⟨h0, rfl⟩
    fun t ⟨ht, hc⟩ w hw => ⟨hstep t hc ht w hw, (t.agentWrite_cfg w).trans hc⟩

section
variable {s : State} {l : List (Word × Byte)} {a : Word}

theorem State.foldl_agentWrite_cfg : (l.foldl State.agentWrite s).cfg = s.cfg :=
  (State.foldl_agentWrite_induction (P := fun _ => True) trivial fun _ _ _ _ _ => trivial).2

theorem State.foldl_agentWrite_sameAt (h : ∀ w ∈ l, w.1 ≠ a) : SameAt a s (l.foldl State.agentWrite s) :=
  (State.foldl_agentWrite_induction (P := SameAt a s) ⟨rfl, rfl, rfl⟩
    fun t _ ht w hw => ht.trans (t.agentWrite_sameAt (h w hw))).1

theorem State.foldl_agentWrite_byteAt_of_ne (h : s.agentAnswer a ≠ .memory) :
    (l.foldl State.agentWrite s).byteAt a = s.byteAt a := by
  refine (State.foldl_agentWrite_induction (P := fun t => t.byteAt a = s.byteAt a) rfl fun t hc ht w _ => ?_).1
  by_cases hw : w.1 = a
  · have hans : t.agentAnswer w.1 ≠ .memory := by rwa [hw, State.agentAnswer_congr hc]
    have hmem : (t.agentWrite w).mem = t.mem := t.writeBusByte_mem_of_ne _ _ hans
    rw [← ht]
    unfold State.byteAt
    rw [hmem]
  · exact (t.agentWrite_sameAt hw).1.trans ht

theorem State.foldl_agentWrite_clint_of_ne (h : ∀ w ∈ l, s.agentAnswer w.1 ≠ .clint) :
    (l.foldl State.agentWrite s).msip = s.msip ∧ (l.foldl State.agentWrite s).mtimecmp = s.mtimecmp
      ∧ (l.foldl State.agentWrite s).mtime = s.mtime := by
  refine (State.foldl_agentWrite_induction
    (P := fun t => t.msip = s.msip ∧ t.mtimecmp = s.mtimecmp ∧ t.mtime = s.mtime) ⟨rfl, rfl, rfl⟩
    fun t hc ⟨hmsip, hcmp, htime⟩ w hw => ?_).1
  have hans : t.agentAnswer w.1 ≠ .clint := by
    rw [State.agentAnswer_congr hc]
    exact h w hw
  obtain ⟨hmsip', hcmp', htime'⟩ := t.writeBusByte_clint_of_ne w.1 w.2 hans
  exact ⟨hmsip'.trans hmsip, hcmp'.trans hcmp, htime'.trans htime⟩

theorem State.foldl_agentWrite_stale_of_not_shared (h : s.cfg.sharedImemDmem = false) :
    (l.foldl State.agentWrite s).stale = s.stale :=
  (State.foldl_agentWrite_induction (P := fun t => t.stale = s.stale) rfl fun t hc ht w _ =>
    (t.writeBusByte_stale_of_not_shared _ w.1 w.2 (hc ▸ h)).trans ht).1

theorem State.foldl_agentWrite_wf (h : Memory.wf s.mem = true) : Memory.wf (l.foldl State.agentWrite s).mem = true :=
  (State.foldl_agentWrite_induction (P := fun t => Memory.wf t.mem = true) h
    fun _ _ ht _ _ => State.wf_writeBusByte ht _ _ _).1

theorem State.foldl_agentWrite_clintByte_isSome (h : (s.clintByte a).isSome = true) :
    ((l.foldl State.agentWrite s).clintByte a).isSome = true :=
  (State.foldl_agentWrite_induction (P := fun t => (t.clintByte a).isSome = true) h
    fun t _ ht _ _ => t.writeBusByte_clintByte_isSome _ _ _ ht).1

/-- 20_memory R127: the byte of `ram` that was there at first still stands or may still be fetched. -/
theorem State.foldl_agentWrite_keeps_byte (hs : s.cfg.sharedImemDmem = true) (ha : s.agentAnswer a = .memory) :
    s.byteAt a = (l.foldl State.agentWrite s).byteAt a ∨ s.byteAt a ∈ (l.foldl State.agentWrite s).staleAt a := by
  refine (State.foldl_agentWrite_induction (P := fun t => s.byteAt a = t.byteAt a ∨ s.byteAt a ∈ t.staleAt a)
    (.inl rfl) fun t hc ht w _ => ?_).1
  obtain ⟨b, v⟩ := w
  by_cases hb : b = a
  · subst hb
    rw [State.agentWrite_of_memory v ((State.agentAnswer_congr hc b).trans ha)]
    exact .inr (State.mem_staleAt_storeByte (hc ▸ hs) ht v)
  · obtain ⟨hbyte, -, hstale⟩ := t.agentWrite_sameAt (w := (b, v)) hb
    rwa [hbyte, hstale]

end

/-! ### The beginning of a step -/

theorem State.agentWrites_eq_foldl (s : State) : s.agentWrites = s.input.writes.foldl State.agentWrite s := rfl

/-- For the parts of the state that an address shows, a step begins where the other agents' writes end. -/
theorem State.beginStep_sameAt (s : State) (a : Word) : SameAt a (s.input.writes.foldl State.agentWrite s) s.beginStep :=
  ⟨rfl, rfl, rfl⟩

theorem State.beginStep_sameAt_of_not_written {s : State} {a : Word} (h : ∀ w ∈ s.input.writes, w.1 ≠ a) :
    SameAt a s s.beginStep :=
  (State.foldl_agentWrite_sameAt h).trans (s.beginStep_sameAt a)

section LastWrite
variable {s : State} {before after : List (Word × Byte)} {a : Word} {v : Byte}

/-- At its address the last write decides. -/
theorem State.beginStep_sameAt_last_write (hw : s.input.writes = before ++ (a, v) :: after)
    (hlast : ∀ w ∈ after, w.1 ≠ a) : SameAt a ((before.foldl State.agentWrite s).agentWrite (a, v)) s.beginStep := by
  have h := s.beginStep_sameAt a
  rw [hw, List.foldl_append, List.foldl_cons] at h
  exact (State.foldl_agentWrite_sameAt hlast).trans h

/-- 20_memory R124, R127: the last byte written to an address of `ram` is there, and the byte it found may still be
fetched. -/
theorem State.beginStep_ram_last_write (hw : s.input.writes = before ++ (a, v) :: after)
    (hlast : ∀ w ∈ after, w.1 ≠ a) (ha : s.agentAnswer a = .memory) (hm : Memory.wf s.mem = true) :
    s.beginStep.byteAt a = v ∧ (s.cfg.sharedImemDmem = true → s.byteAt a ∈ s.beginStep.staleAt a) := by
  obtain ⟨hbyte, -, hstale⟩ := State.beginStep_sameAt_last_write hw hlast
  have hc : (before.foldl State.agentWrite s).cfg = s.cfg := State.foldl_agentWrite_cfg
  have hwrite := State.agentWrite_of_memory v ((State.agentAnswer_congr hc a).trans ha)
  rw [hbyte, hstale, hwrite]
  exact ⟨State.byteAt_storeByte_same (State.foldl_agentWrite_wf hm) a v,
    fun hs => State.mem_staleAt_storeByte (hc ▸ hs) (State.foldl_agentWrite_keeps_byte hs ha) v⟩

/-- 60_exceptions R387: the last byte written to an address of a register of the CLINT is there, bit 0 alone of
`msip`. -/
theorem State.beginStep_clint_last_write (hw : s.input.writes = before ++ (a, v) :: after)
    (hlast : ∀ w ∈ after, w.1 ≠ a) (ha : s.agentAnswer a = .clint) (hr : (s.clintByte a).isSome = true) :
    s.beginStep.clintByte a = some (if (a - Config.clintMsip s.cfg).toNat < 4 then
      (if a = Config.clintMsip s.cfg then v &&& 1#8 else 0#8) else v) := by
  obtain ⟨-, hclint, -⟩ := State.beginStep_sameAt_last_write hw hlast
  have hc : (before.foldl State.agentWrite s).cfg = s.cfg := State.foldl_agentWrite_cfg
  have hwrite := State.agentWrite_of_clint v ((State.agentAnswer_congr hc a).trans ha)
  have hr' := State.foldl_agentWrite_clintByte_isSome (l := before) hr
  rw [hclint, hwrite, State.clintByte_storeClintByte, if_pos ⟨rfl, hr'⟩, hc]

end LastWrite

/-- Nothing but memory, what is stale, the CLINT's registers, the lines, the inputs and the log differs when a step
begins. -/
theorem State.beginStep_frame (s : State) :
    s.beginStep = { s with mem := s.beginStep.mem, stale := s.beginStep.stale, msip := s.beginStep.msip,
                           mtimecmp := s.beginStep.mtimecmp, mtime := s.beginStep.mtime,
                           lines := s.beginStep.lines, inputs := s.beginStep.inputs, log := StepLog.empty } := by
  obtain ⟨hbus, hdevice⟩ := s.agentWrites_bus
  unfold OnlyBus at hbus
  rw [hdevice] at hbus
  exact congrArg (fun t => { t with lines := s.sampledLines, inputs := s.inputs.tail, log := StepLog.empty }) hbus

theorem Config.hasClint_iff (c : Config) : Config.hasClint c = true ↔ ∃ r ∈ c.memMap, r.kind = .clint := by
  simp [Config.hasClint]

/-- With no CLINT the environment drives every line (10_state R44). -/
theorem State.sampledLines_of_no_clint {s : State} (h : ∀ r ∈ s.cfg.memMap, r.kind ≠ .clint) :
    s.sampledLines = s.input.lines := by
  refine if_neg fun hc => ?_
  obtain ⟨r, hr, hk⟩ := (Config.hasClint_iff s.cfg).mp hc
  exact h r hr hk

/-- 60_exceptions R387: the CLINT's two lines follow it after a free delay (U14). -/
theorem State.sampledLines_of_clint {s : State} (h : ∃ r ∈ s.cfg.memMap, r.kind = .clint) :
    s.sampledLines =
      { s.input.lines with
        software := if Config.freeLineSettles false s.draws then s.msip else s.lines.software
        timer := if Config.freeLineSettles true s.draws then decide (s.mtimecmp.toNat ≤ s.mtime.toNat)
          else s.lines.timer } :=
  if_pos ((Config.hasClint_iff s.cfg).mpr h)

theorem State.input_of_nil {s : State} (h : s.inputs = []) : s.input = ⟨s.lines, [], false⟩ := by
  simp [State.input, h]

theorem State.input_of_cons {s : State} {x : Input} {rest : List Input} (h : s.inputs = x :: rest) :
    s.input = x ∧ s.beginStep.inputs = rest := by
  simp [State.input, h]

theorem State.agentWrites_of_no_writes {s : State} (h : s.input.writes = []) : s.agentWrites = s := by
  rw [State.agentWrites_eq_foldl, h, List.foldl_nil]

/-- Settles O13: each clause about the bytes is a fact that every one of the other agents' writes keeps, and for the
last write to an address what that write makes of it. -/
theorem stepInputs : Obligations.StepInputs := by
  intro s
  refine ⟨State.sampledLines_of_no_clint, State.sampledLines_of_clint, State.input_of_nil,
    fun _ _ => State.input_of_cons, fun _ => State.beginStep_sameAt_of_not_written, fun a hram => ?_, fun hclint => ?_,
    fun hnone => ?_, State.foldl_agentWrite_stale_of_not_shared, fun before after a v r hw hlast hr => ⟨?_, ?_⟩,
    s.beginStep_frame⟩
  · refine State.foldl_agentWrite_byteAt_of_ne fun hmem => ?_
    obtain ⟨r, hr, hk⟩ := State.agentAnswer_eq_memory.mp hmem
    exact hram r hr hk
  · refine State.foldl_agentWrite_clint_of_ne fun w hw hans => ?_
    obtain ⟨r, hr, hk⟩ := State.agentAnswer_eq_clint.mp hans
    exact hclint w hw r hr hk
  · rw [State.beginStep_mem, State.beginStep_stale, State.agentWrites_of_no_writes hnone]
    exact ⟨rfl, rfl⟩
  · exact fun hk hm => State.beginStep_ram_last_write hw hlast (State.agentAnswer_eq_memory.mpr ⟨r, hr, hk⟩) hm
  · exact fun hk hsome =>
      State.beginStep_clint_last_write hw hlast (State.agentAnswer_eq_clint.mpr ⟨r, hr, hk⟩) hsome

end Sys2Proof.Machine

/-! What a step can answer, operation by operation, and the invariant that every step keeps (O8). -/

namespace Sys2Proof.Machine

open Sys2Proof

/-! ### What a step can answer -/

/-- An event before the instruction at pc is an entry to Debug mode, the NMI, or a pending interrupt (60_exceptions R372,
R385). -/
theorem State.preempt_cases {s u : State} (h : s.preempt = some u) :
    (∃ c, u = s.enterDebug c s.pc) ∨ u = s.takeNmi
      ∨ ∃ n, s.pendingInterrupt = some n ∧ u = s.trap true n 0#32 s.pc := by
  unfold State.preempt at h
  split at h
  · cases h
  split at h
  · exact .inl ⟨_, (Option.some.inj h).symm⟩
  split at h
  · exact .inr (.inl (Option.some.inj h).symm)
  split at h
  · rename_i n hn
    split at h
    · exact .inr (.inr ⟨n, hn, (Option.some.inj h).symm⟩)
    split at h
    · exact .inl ⟨_, (Option.some.inj h).symm⟩
    · cases h
  · split at h
    · exact .inl ⟨_, (Option.some.inj h).symm⟩
    · cases h

/-- Whatever stands at pc, a step that runs it leaves one of the states of `Effect`: a fetch error and an illegal word
trap, and a decoded instruction is `exec`'s. -/
theorem State.runInstr_effect {s u : State} (h : s.runInstr = .next u) : Effect s u := by
  unfold State.runInstr at h
  split at h
  · cases h
  split at h
  · exact .of_raise h
  · cases h
  split at h
  · exact .of_raise h
  · exact exec_effect _ h

theorem State.runAwake_cases {s u : State} (h : s.runAwake = .next u) :
    s.preempt = some u ∨ (s.preempt = none ∧ s.runInstr = .next u) := by
  unfold State.runAwake at h
  split at h
  · rename_i hp
    cases h
    exact .inl hp
  · rename_i hp
    exact .inr ⟨hp, h⟩

theorem State.finish_next {s t : State} {o : Out} (h : s.finish o = .next t) :
    ∃ u, o = .next u ∧ t = s.tick (s.singleStep u) := by
  cases o with
  | next u => cases h; exact ⟨u, rfl, rfl⟩
  | fault _ => cases h
  | refused _ => cases h

theorem State.hartStep_cases {s t : State} (h : s.hartStep = .next t) :
    (s.staysAsleep = true ∧ t = s.tick s)
      ∨ (s.staysAsleep = false ∧ ∃ u, s.awake.runAwake = .next u ∧ t = s.awake.tick (s.awake.singleStep u)) := by
  unfold State.hartStep at h
  split at h
  · rename_i hs
    cases h
    exact .inl ⟨hs, rfl⟩
  · rename_i hs
    exact .inr ⟨by simpa using hs, State.finish_next h⟩

/-- 70_reset R403: a reset in mid-step leaves the reset state, over the memory that some bytes were taken into. -/
theorem State.resetDuring_eq (s : State) (made : List Part) (o : Out) :
    ∃ (new : Memory) (addrs : List Word) (device : List DeviceAccess),
      s.resetDuring made o = State.resetWith s.cfg (Memory.takeOver new addrs s.mem) s.imem s.lines s.inputs device
        (s.draws + 1) := by
  cases o with
  | next t => exact ⟨_, _, _, rfl⟩
  | fault _ => exact ⟨[], [], s.device, rfl⟩
  | refused _ => exact ⟨[], [], s.device, rfl⟩

theorem step_of_reset {s : State} (h : s.input.reset = true) :
    step s = .next (s.beginStep.resetDuring s.beginStep.transfersMade s.beginStep.interrupted) :=
  if_pos h

theorem step_of_not_reset {s : State} (h : s.input.reset = false) : step s = s.beginStep.hartStep :=
  if_neg (by simp [h])

/-! ### The causes that trap entry writes are legal (10_state R42) -/

theorem mcauseLegal_exc (c : Config) (e : Exc) : Config.mcauseLegal c (causeWord false e.code) = true := by
  cases e <;> rfl

theorem mcauseLegal_zero (c : Config) : Config.mcauseLegal c 0#32 = true := rfl

theorem mcauseLegal_nmi (c : Config) : Config.mcauseLegal c (causeWord true 32) = true := rfl

theorem mcauseLegal_custom {c : Config} {k : Nat} (hk : k < 16) (h : c.customIrqMask.getLsbD k = true) :
    Config.mcauseLegal c (causeWord true (16 + k)) = true := by
  have hbit : (causeWord true (16 + k)).getLsbD 31 = true := by
    interval_cases k <;> rfl
  have hcode : ((causeWord true (16 + k)).extractLsb' 0 31).toNat = 16 + k := by
    interval_cases k <;> rfl
  rw [Config.mcauseLegal, if_pos hbit, hcode, Nat.add_sub_cancel_left, h]
  simp [show 16 + k ≤ 31 by omega]

/-- A pending interrupt's cause is legal: `mip` shows only the custom lines the configuration has. -/
theorem State.mcauseLegal_pendingInterrupt {s : State} {n : Nat} (h : s.pendingInterrupt = some n) :
    Config.mcauseLegal s.cfg (causeWord true n) = true := by
  have hmem : n ∈ interruptOrder := List.mem_of_find?_eq_some h
  have hpend : s.mip.getLsbD n = true := by
    have hbit := List.find?_some h
    rw [BitVec.getLsbD_and, Bool.and_eq_true] at hbit
    exact hbit.1
  have hrange : n = 3 ∨ n = 7 ∨ n = 11 ∨ ∃ k < 16, n = 16 + k := by
    have := (by decide : ∀ m ∈ interruptOrder, m = 3 ∨ m = 7 ∨ m = 11 ∨ (16 ≤ m ∧ m < 32)) n hmem
    rcases this with h3 | h7 | h11 | hc
    · exact .inl h3
    · exact .inr (.inl h7)
    · exact .inr (.inr (.inl h11))
    · exact .inr (.inr (.inr ⟨n - 16, by omega, by omega⟩))
  rcases hrange with rfl | rfl | rfl | ⟨k, hk, rfl⟩
  · rfl
  · rfl
  · rfl
  · rw [State.mip_custom, Bool.and_eq_true] at hpend
    exact mcauseLegal_custom hk hpend.2

/-! ### The invariant in the middle of a step -/

/-- The invariant while a step runs: its last clause, on the log, holds between steps only. -/
def InvMid (s : State) : Prop := Inv { s with log := StepLog.empty }

theorem Inv.mid {s : State} (h : Inv s) : InvMid s := { h with log := rfl }

theorem even_trapVector (mtvec : Word) (i : Bool) (c : Nat) : (trapVector mtvec i c).getLsbD 0 = false := by
  have hbase : (mtvec &&& 0xFFFFFFFC#32).getLsbD 0 = false := by simp
  have hoffset : (BitVec.ofNat 32 (4 * c)).getLsbD 0 = false := by
    rw [BitVec.getLsbD_ofNat, Nat.testBit_zero]
    simp [Nat.mul_mod]
  unfold trapVector
  split
  · exact even_add hbase hoffset
  · exact hbase

theorem Config.wf_even {c : Config} (h : c.wf = true) :
    c.resetPc.getLsbD 0 = false ∧ c.debugHaltAddr.getLsbD 0 = false := by
  simp only [Config.wf, Bool.and_eq_true, Bool.not_eq_true'] at h
  tauto

theorem Config.wf_mtvecReset {c : Config} (h : c.wf = true) : c.mtvecReset.getLsbD 1 = false := by
  simp only [Config.wf, Bool.and_eq_true, Bool.not_eq_true'] at h
  tauto

/-- What bus transfers leave keeps the invariant if memory stays canonical. -/
theorem InvMid.of_bus {s u : State} (h : InvMid s) (hu : OnlyBus s u) (hm : Memory.wf u.mem = true) : InvMid u := by
  rw [hu]
  exact { h with mem := hm }

theorem BusRead.inv {s u : State} (hu : BusRead s u) (h : InvMid s) : InvMid u := by
  rw [hu]
  exact { h with }

theorem BusWrite.inv {s u : State} (hu : BusWrite s u) (h : InvMid s) : InvMid u := h.of_bus hu.1 (hu.2 h.mem)

theorem InvMid.beginStep {s : State} (h : InvMid s) : InvMid s.beginStep :=
  have hw : InvMid s.agentWrites := h.of_bus s.agentWrites_bus.1 (State.wf_agentWrites h.mem)
  { hw with }

theorem InvMid.awake {s : State} (h : InvMid s) : InvMid s.awake := { h with debugAwake := fun _ => rfl }

theorem InvMid.retire {s : State} {npc : Word} (h : InvMid s) (he : npc.getLsbD 0 = false) : InvMid (s.retire npc) :=
  { h with pc := he }

theorem InvMid.setReg {s : State} (h : InvMid s) (rd : Reg) (v : Word) : InvMid (s.setReg rd v) := by
  unfold State.setReg
  split
  · exact h
  · rename_i hrd
    have hne : rd.toNat ≠ 0 := fun hz => hrd (BitVec.eq_of_toNat_eq hz)
    exact { h with x0 := (Vector.getElem_set_ne rd.isLt _ hne).trans h.x0 }

theorem InvMid.trap {s : State} {i : Bool} {c : Nat} (h : InvMid s)
    (hc : Config.mcauseLegal s.cfg (causeWord i c) = true) (v e : Word) : InvMid (s.trap i c v e) :=
  { h with
    pc := even_trapVector _ _ _
    mepc := even_evenAddr _
    mcause := fun _ => hc
    debugPriv := fun _ => rfl
    debugAwake := fun _ => rfl }

theorem InvMid.takeNmi {s : State} (h : InvMid s) : InvMid s.takeNmi := by
  have hsaved : InvMid { s with nmiSaved := ⟨s.mstatus.mpp, s.mstatus.mpie, s.mepc, s.mcause⟩, inNmi := true } :=
    { h with savedMepc := h.mepc, savedMcause := h.mcause }
  exact hsaved.trap (mcauseLegal_nmi _) _ _

theorem InvMid.enterDebug {s : State} (h : InvMid s) (c : DebugCause) (r : Word) : InvMid (s.enterDebug c r) :=
  { h with
    pc := (Config.wf_even h.cfg).2
    dpc := even_evenAddr _
    debugPriv := fun _ => rfl
    debugAwake := fun _ => rfl }

theorem InvMid.trapReturn {s : State} (h : InvMid s) (hd : s.debugMode = false) : InvMid s.trapReturn where
  __ := h
  pc := h.mepc
  mepc := by
    show (if s.inNmi then s.nmiSaved.mepc else s.mepc).getLsbD 0 = false
    split
    · exact h.savedMepc
    · exact h.mepc
  mcause := by
    show McauseOk s.cfg (if s.inNmi then s.nmiSaved.mcause else s.mcause)
    split
    · exact h.savedMcause
    · exact h.mcause
  debugPriv := fun hd' => absurd hd' (by simp [hd])

theorem InvMid.debugReturn {s : State} (h : InvMid s) : InvMid s.debugReturn :=
  { h with pc := h.dpc, debugPriv := nofun, debugAwake := nofun }

/-! ### What a CSR write changes -/

theorem State.setTrigger_eq (s : State) (f : Trigger → Trigger) :
    s.setTrigger f =
      { s with triggers := if s.debugMode then s.triggers.modify s.tselect.toNat f else s.triggers } := by
  unfold State.setTrigger
  split <;> rfl

theorem State.setHpm_eq (s : State) (k : Fin 10) (v : BitVec 64) :
    s.setHpm k v =
      { s with
        hpmcounters :=
          if Config.hpmImplemented s.cfg k.val then s.hpmcounters.set k.val (v &&& Config.hpmMask s.cfg)
          else s.hpmcounters } := by
  unfold State.setHpm
  split <;> rfl

/-- Everything a CSR write can change, field by field (10_state R34..R57). -/
theorem State.writeCsr_eq (s : State) (c : Csr) (w : Word) :
    s.writeCsr c w =
      { s with
        mstatus := if c = .mstatus then Mstatus.ofWord w else s.mstatus
        mie := if c = .mie then w &&& Config.mieMask s.cfg else s.mie
        mtvec := if c = .mtvec then Config.mtvecBase s.cfg w ||| Config.mtvecMode s.cfg s.mtvec w else s.mtvec
        mcountinhibit := if c = .mcountinhibit then w &&& Config.mcountinhibitMask s.cfg else s.mcountinhibit
        mscratch := if c = .mscratch then w else s.mscratch
        mepc := if c = .mepc then evenAddr w else s.mepc
        mcause := if c = .mcause then ⟨w, !(Config.mcauseLegal s.cfg w)⟩ else s.mcause
        mtval := if c = .mtval then w else s.mtval
        tselect := if c = .tselect ∧ w.toNat < s.cfg.dbgTriggers then w else s.tselect
        triggers :=
          if c = .tdata1 then (s.setTrigger fun t => { t with execute := w.getLsbD 2 }).triggers
          else if c = .tdata2 then (s.setTrigger fun t => { t with address := w }).triggers
          else s.triggers
        dcsr := if c = .dcsr then s.dcsrWritten w else s.dcsr
        dpc := if c = .dpc then evenAddr w else s.dpc
        dscratch0 := if c = .dscratch0 then w else s.dscratch0
        dscratch1 := if c = .dscratch1 then w else s.dscratch1
        cpuctrl := if c = .cpuctrl then w else s.cpuctrl
        mcycle :=
          if c = .mcycle then setLowHalf s.mcycle w
          else if c = .mcycleh then setHighHalf s.mcycle w
          else s.mcycle
        minstret :=
          if c = .minstret then setLowHalf s.minstret w
          else if c = .minstreth then setHighHalf s.minstret w
          else s.minstret
        hpmcounters :=
          match c with
          | .mhpmcounter k => (s.setHpm k (setLowHalf (s.hpm k) w)).hpmcounters
          | .mhpmcounterh k => (s.setHpm k (setHighHalf (s.hpm k) w)).hpmcounters
          | _ => s.hpmcounters } := by
  cases c with
  | tselect => by_cases hw : w.toNat < s.cfg.dbgTriggers <;> simp [State.writeCsr, hw]
  | tdata1 | tdata2 => simp [State.writeCsr, State.setTrigger_eq]
  | mhpmcounter k | mhpmcounterh k => simp [State.writeCsr, State.setHpm_eq]
  | _ => simp [State.writeCsr]

@[simp] theorem State.writeCsr_draws (s : State) (c : Csr) (w : Word) : (s.writeCsr c w).draws = s.draws := by
  rw [State.writeCsr_eq]

@[simp] theorem State.writeCsr_cfg (s : State) (c : Csr) (w : Word) : (s.writeCsr c w).cfg = s.cfg := by
  rw [State.writeCsr_eq]

/-! ### A CSR write keeps the invariant -/

/-- A masked value lies within its mask. -/
theorem and_mask_within {n : Nat} (x m : BitVec n) : (x &&& m) &&& ~~~m = 0#n := by
  rw [BitVec.and_assoc, BitVec.and_not_self]
  exact BitVec.and_zero

/-- 10_state R37: whatever is written, bit 1 of the mode stays 0. -/
theorem mtvec_mode_legal {c : Config} {old : Word} (h : old.getLsbD 1 = false) (w : Word) :
    (Config.mtvecBase c w ||| Config.mtvecMode c old w).getLsbD 1 = false := by
  have hbase : (Config.mtvecBase c w).getLsbD 1 = false := by
    simp [Config.mtvecBase, show 1 < max c.mtvecBaseAlign 2 by omega]
  have hmode : (Config.mtvecMode c old w).getLsbD 1 = false := by
    unfold Config.mtvecMode
    cases c.mtvecModeFixed with
    | direct => simp
    | vectored => simp
    | free =>
      cases hw : w.getLsbD 1 with
      | true => simp only [if_true, BitVec.getLsbD_and, h, Bool.false_and]
      | false => simp only [Bool.false_eq_true, if_false, BitVec.getLsbD_and, hw, Bool.false_and]
  rw [BitVec.getLsbD_or, hbase, hmode, Bool.or_false]

theorem InvMid.setTrigger {s : State} (h : InvMid s) (f : Trigger → Trigger) : InvMid (s.setTrigger f) := by
  rw [State.setTrigger_eq]
  refine { h with triggers := ?_ }
  dsimp only
  split
  · exact (List.length_modify _ _ _).trans h.triggers
  · exact h.triggers

theorem InvMid.setHpm {s : State} (h : InvMid s) (k : Fin 10) (v : BitVec 64) : InvMid (s.setHpm k v) := by
  rw [State.setHpm_eq]
  refine { h with hpm := fun j => ?_ }
  dsimp only
  split
  · rw [Fin.getElem_fin, Vector.getElem_set]
    split
    · exact and_mask_within _ _
    · exact h.hpm j
  · exact h.hpm j

theorem InvMid.writeCsr {s : State} (h : InvMid s) (c : Csr) (w : Word) : InvMid (s.writeCsr c w) := by
  cases c with
  | mie => exact { h with mie := and_mask_within _ _ }
  | mtvec => exact { h with mtvec := mtvec_mode_legal h.mtvec w }
  | mcountinhibit => exact { h with mcountinhibit := and_mask_within _ _ }
  | mepc => exact { h with mepc := even_evenAddr w }
  | mcause => exact { h with mcause := fun ho => Bool.eq_true_of_not_eq_false' ho }
  | tselect =>
    simp only [State.writeCsr]
    split
    · rename_i hlt
      exact { h with tselect := .inr hlt }
    · exact h
  | tdata1 => exact h.setTrigger _
  | tdata2 => exact h.setTrigger _
  | dpc => exact { h with dpc := even_evenAddr w }
  | mhpmcounter k => exact h.setHpm k _
  | mhpmcounterh k => exact h.setHpm k _
  | mstatus | mscratch | mtval | dcsr | dscratch0 | dscratch1 | cpuctrl | mcycle | minstret | mcycleh | minstreth =>
    exact { h with }
  | misa | mhpmevent _ | mip | tdata3 | mcontext | scontext | cycle | instret | cycleh | instreth | mvendorid | marchid
  | mimpid | mhartid => exact h

/-! ### Every instruction and every step keeps the invariant -/

theorem Effect.inv {s t : State} (he : Effect s t) (h : InvMid s) : InvMid t := by
  cases he with
  | trap e v => exact h.trap (mcauseLegal_exc _ e) _ _
  | write rd v npc he => exact (h.setReg rd v).retire (he h.pc)
  | move npc he => exact h.retire (he h.pc)
  | load u rd v npc hu he => exact ((hu.inv h).setReg rd v).retire (he h.pc)
  | loadFault u e v hu => exact (hu.inv h).trap (by rw [hu]; exact mcauseLegal_exc _ e) _ _
  | store u npc hu he => exact (hu.inv h).retire (he h.pc)
  | storeFault u e v hu => exact (hu.inv h).trap (mcauseLegal_exc _ e) _ _
  | csr c a rd v w writes hc hd he =>
    have hw : InvMid (if writes then s.writeCsr c w else s) := by
      split
      · exact h.writeCsr c w
      · exact h
    exact { hw.setReg rd v with pc := he h.pc }
  | fenceI he =>
    have hempty : InvMid { s with stale := [] } := { h with }
    exact hempty.retire (he h.pc)
  | mret hd => exact h.trapReturn hd
  | wfi he =>
    have hsleep : InvMid { s with wfiSleep := s.wfiSleeps } :=
      { h with debugAwake := fun (hd : s.debugMode = true) => by simp [State.wfiSleeps, hd] }
    exact hsleep.retire (he h.pc)
  | dret => exact h.debugReturn
  | ebreak =>
    have hd : InvMid (s.enterDebug .ebreak s.pc) := h.enterDebug _ _
    exact { hd with }

/-- No instruction changes the configuration, and the free values of a step are drawn at one place. -/
theorem Effect.cfg_draws {s t : State} (he : Effect s t) : t.cfg = s.cfg ∧ t.draws = s.draws := by
  cases he with
  | load u rd v npc hu => rw [hu]; simp
  | loadFault u e v hu => rw [hu]; simp
  | store u npc hu => rw [hu.1]; simp
  | storeFault u e v hu => rw [hu.1]; simp
  | csr c a rd v w writes => cases writes <;> simp
  | trap | write | move | fenceI | mret | wfi | dret | ebreak => simp

/-- 10_state R57: the passing of time leaves each event counter within its width. -/
theorem InvMid.tick {s t : State} (h : InvMid t) (hc : t.cfg = s.cfg) : Inv (s.tick t) where
  __ := h
  log := rfl
  hpm := fun k => by
    simp only [State.tick_hpmcounters, State.tick_cfg, Fin.getElem_fin, Vector.getElem_mapIdx]
    unfold State.nextHpm
    split
    · rw [hc]
      exact and_mask_within _ _
    · exact h.hpm k

theorem State.singleStep_cases (s t : State) : s.singleStep t = t ∨ s.singleStep t = t.enterDebug .step t.pc := by
  unfold State.singleStep
  split
  · exact .inr rfl
  · exact .inl rfl

theorem InvMid.singleStep {s t : State} (h : InvMid t) : InvMid (s.singleStep t) := by
  rcases s.singleStep_cases t with e | e
  · rwa [e]
  · rw [e]
    exact h.enterDebug _ _

theorem InvMid.preempt {s u : State} (h : InvMid s) (hp : s.preempt = some u) : InvMid u := by
  rcases State.preempt_cases hp with ⟨c, rfl⟩ | rfl | ⟨n, hn, rfl⟩
  · exact h.enterDebug _ _
  · exact h.takeNmi
  · exact h.trap (State.mcauseLegal_pendingInterrupt hn) _ _

theorem State.runAwake_cfg_draws {s u : State} (h : s.runAwake = .next u) : u.cfg = s.cfg ∧ u.draws = s.draws := by
  rcases State.runAwake_cases h with hp | ⟨-, hr⟩
  · rcases State.preempt_cases hp with ⟨c, rfl⟩ | rfl | ⟨n, -, rfl⟩
    · exact ⟨rfl, rfl⟩
    · exact ⟨rfl, rfl⟩
    · exact ⟨rfl, rfl⟩
  · exact (State.runInstr_effect hr).cfg_draws

theorem InvMid.runAwake {s u : State} (h : InvMid s) (hr : s.runAwake = .next u) : InvMid u := by
  rcases State.runAwake_cases hr with hp | ⟨-, hr⟩
  · exact h.preempt hp
  · exact (State.runInstr_effect hr).inv h

theorem State.singleStep_cfg (s t : State) : (s.singleStep t).cfg = t.cfg := by
  rcases s.singleStep_cases t with e | e
  · rw [e]
  · rw [e]
    rfl

theorem InvMid.hartStep {s t : State} (h : InvMid s) (ht : s.hartStep = .next t) : Inv t := by
  rcases State.hartStep_cases ht with ⟨-, rfl⟩ | ⟨-, u, hu, rfl⟩
  · exact h.tick rfl
  · have hmid : InvMid u := h.awake.runAwake hu
    exact hmid.singleStep.tick ((State.singleStep_cfg _ _).trans (State.runAwake_cfg_draws hu).1)

/-- 70_reset R401: the reset state, over canonical memory, meets the invariant. -/
theorem inv_resetWith {cfg : Config} {mem imem : Memory} (hc : cfg.wf = true) (hm : Memory.wf mem = true)
    (hi : Memory.wf imem = true) (lines : Lines) (inputs : List Input) (device : List DeviceAccess) (draws : Nat) :
    Inv (State.resetWith cfg mem imem lines inputs device draws) where
  cfg := hc
  mem := hm
  imem := hi
  x0 := rfl
  pc := (Config.wf_even hc).1
  mepc := BitVec.getLsbD_zero
  savedMepc := BitVec.getLsbD_zero
  dpc := BitVec.getLsbD_zero
  mie := BitVec.zero_and
  mtvec := Config.wf_mtvecReset hc
  mcountinhibit := BitVec.zero_and
  mcause := fun _ => mcauseLegal_zero cfg
  savedMcause := fun _ => mcauseLegal_zero cfg
  tselect := .inl rfl
  triggers := List.length_replicate
  hpm := fun k => by
    show (Vector.replicate 10 0#64)[k.val] &&& _ = 0#64
    rw [Vector.getElem_replicate, BitVec.zero_and]
  debugPriv := nofun
  debugAwake := nofun
  log := rfl

/-- Settles O8: every operation of a step keeps the invariant but for the log, the end of a step empties the log, and a
reset leaves a state that meets the invariant whatever it interrupts. -/
theorem stepKeepsInv : Obligations.StepKeepsInv := by
  intro s t h ht
  have hb : InvMid s.beginStep := h.mid.beginStep
  cases hr : s.input.reset with
  | false =>
    rw [step_of_not_reset hr] at ht
    exact hb.hartStep ht
  | true =>
    rw [step_of_reset hr] at ht
    cases ht
    obtain ⟨new, addrs, device, e⟩ :=
      s.beginStep.resetDuring_eq s.beginStep.transfersMade s.beginStep.interrupted
    rw [e]
    exact inv_resetWith hb.cfg (Memory.wf_takeOver new addrs hb.mem) hb.imem _ _ _ _

end Sys2Proof.Machine

/-! Which CSR an address names and who may access it (O48, O52). -/

namespace Sys2Proof.Machine

open Sys2Proof

/-! ### Addresses (10_state R32) -/

theorem familyIndex_eq_some {base : Nat} {a : CsrAddr} {k : Fin 10} (h : familyIndex base a = some k) :
    a = BitVec.ofNat 12 (base + k.val) := by
  unfold familyIndex at h
  split at h
  · rename_i hb
    cases h
    rw [Nat.add_sub_cancel' hb.1, BitVec.ofNat_toNat, BitVec.setWidth_eq]
  · cases h

theorem csrSingle_eq_none {a : CsrAddr} (h : ∀ p ∈ csrTable, a ≠ BitVec.ofNat 12 p.1) : csrSingle a = none := by
  simp only [csrTable, List.forall_mem_cons, List.not_mem_nil] at h
  simp [csrSingle, h]

/-- The decoder of addresses is the table of R32 (assumption 35). -/
theorem csrOf_eq_some_iff (a : CsrAddr) (c : Csr) : csrOf a = some c ↔ (a.toNat, c) ∈ csrTable := by
  have rows : ∀ p ∈ csrTable, csrOf (BitVec.ofNat 12 p.1) = some p.2 ∧ p.1 < 4096 := by decide
  constructor
  · intro h
    obtain ⟨p, hp, rfl⟩ : ∃ p ∈ csrTable, a = BitVec.ofNat 12 p.1 := by
      unfold csrOf at h
      split at h
      · rename_i k hk
        exact ⟨_, (by decide : ∀ k : Fin 10, (0x323 + k.val, Csr.mhpmevent k) ∈ csrTable) k, familyIndex_eq_some hk⟩
      split at h
      · rename_i k hk
        exact ⟨_, (by decide : ∀ k : Fin 10, (0xB03 + k.val, Csr.mhpmcounter k) ∈ csrTable) k, familyIndex_eq_some hk⟩
      split at h
      · rename_i k hk
        exact ⟨_, (by decide : ∀ k : Fin 10, (0xB83 + k.val, Csr.mhpmcounterh k) ∈ csrTable) k,
          familyIndex_eq_some hk⟩
      · by_contra hnot
        rw [csrSingle_eq_none fun p hp ha => hnot ⟨p, hp, ha⟩] at h
        cases h
    obtain ⟨hrow, hlt⟩ := rows p hp
    rw [hrow] at h
    cases h
    rwa [BitVec.toNat_ofNat, Nat.mod_eq_of_lt hlt]
  · intro h
    simpa using (rows _ h).1

/-! ### Accesses that are refused, and reads -/

/-- R31, R330: an access to no register, or one the checks refuse, is a trap with code 2 and nothing else. -/
theorem State.csrAccess_denied_effect {s : State} {i : Instr} {rd : Reg} {a : CsrAddr} {w : Bool} {f : Word → Word}
    (hx : TakesExceptions s) (hu : ∀ r ∈ usedRegs i, RegExists s r) (h : csrOf a = none ∨ ¬CsrAllowed s a w) :
    ∃ t, s.csrAccess i rd a w f = .next t ∧ TrapEffect false 2 (encode i).toWord s.pc s t := by
  rw [State.csrAccess_denied hu h]
  exact State.raise_effect hx .illegalInstruction _

/-- Settles O48: an address is decoded by the table, and each of the six instructions is one use of `csrAccess`, which
traps when the checks refuse. -/
theorem csrDeniedTraps : Obligations.CsrDeniedTraps := by
  refine ⟨csrOf_eq_some_iff, fun s rd rs1 uimm a hx hrd hrs1 i writes hi hdenied => ?_⟩
  have huse : ∀ r ∈ [rd, rs1], RegExists s r := by simp [hrd, hrs1]
  have huse' : ∀ r ∈ [rd], RegExists s r := by simp [hrd]
  simp only [List.mem_cons, Prod.mk.injEq, List.not_mem_nil, or_false] at hi
  rcases hi with ⟨rfl, rfl⟩ | ⟨rfl, rfl⟩ | ⟨rfl, rfl⟩ | ⟨rfl, rfl⟩ | ⟨rfl, rfl⟩ | ⟨rfl, rfl⟩
  · change ∃ t, execCsrrw rd rs1 a s = _ ∧ _
    exact State.csrAccess_denied_effect hx huse hdenied
  · change ∃ t, execCsrrs rd rs1 a s = _ ∧ _
    exact State.csrAccess_denied_effect hx huse hdenied
  · change ∃ t, execCsrrc rd rs1 a s = _ ∧ _
    exact State.csrAccess_denied_effect hx huse hdenied
  · change ∃ t, execCsrrwi rd uimm a s = _ ∧ _
    exact State.csrAccess_denied_effect hx huse' hdenied
  · change ∃ t, execCsrrsi rd uimm a s = _ ∧ _
    exact State.csrAccess_denied_effect hx huse' hdenied
  · change ∃ t, execCsrrci rd uimm a s = _ ∧ _
    exact State.csrAccess_denied_effect hx huse' hdenied

/-- A CSR instruction that does not write is a register write that retires. -/
theorem CsrEffect.regEffect {c : Csr} {a : CsrAddr} {rd : Reg} {s t : State} (h : CsrEffect c a rd none s t) :
    RegEffect rd (s.readCsr c) (s.pc + 4#32) s t where
  regs := h.regs
  pc := h.pc
  retired := h.log
  frame := h.frame
  bytes := h.bytes

theorem lowHalf_eq_ofNat (v : BitVec 64) : lowHalf v = BitVec.ofNat 32 v.toNat := by
  simp [lowHalf, ← BitVec.toNat_inj]

theorem highHalf_eq_ofNat (v : BitVec 64) : highHalf v = BitVec.ofNat 32 (v.toNat / 2 ^ 32) := by
  simp [highHalf, ← BitVec.toNat_inj, Nat.shiftRight_eq_div_pow]

/-- R58: a user counter may be read in M-mode, and in U-mode when U_COUNTER_ACCESS. -/
theorem csrAllowed_userCounter {s : State} {a : CsrAddr} (h : s.priv = .M ∨ s.cfg.uCounterAccess = true)
    (ha : a ∈ [0xC00#12, 0xC02#12, 0xC80#12, 0xC82#12]) : CsrAllowed s a false := by
  have haddr : a.toNat / 256 % 4 = 0 ∧ 0x7B3 < a.toNat := by
    simp only [List.mem_cons, List.not_mem_nil, or_false] at ha
    rcases ha with rfl | rfl | rfl | rfl <;> decide
  obtain ⟨hlow, hdebug⟩ := haddr
  exact ⟨.inr hlow, nofun, .inr (.inr hdebug), h.imp_right .inl⟩

/-- Settles O52: the four addresses name the halves, and reading them is allowed. -/
theorem counterShadows : Obligations.CounterShadows := by
  intro s rd hrd hs
  have read : ∀ (a : CsrAddr) (c : Csr), a ∈ [0xC00#12, 0xC02#12, 0xC80#12, 0xC82#12] → csrOf a = some c →
      ∃ t, exec (.csrrs rd 0#5 a) s = .next t ∧ RegEffect rd (s.readCsr c) (s.pc + 4#32) s t := by
    intro a c ha hc
    have hzero : RegExists s 0#5 := .inr (by decide)
    have huse : ∀ r ∈ [rd, 0#5], RegExists s r := by simp [hrd, hzero]
    obtain ⟨t, ht, heff⟩ := State.csrAccess_effect (i := .csrrs rd 0#5 a) (rd := rd) (w := false)
      (f := fun v => v ||| s.reg 0#5) hc huse (csrAllowed_userCounter hs ha)
    exact ⟨t, ht, heff.regEffect⟩
  rw [← lowHalf_eq_ofNat, ← highHalf_eq_ofNat, ← lowHalf_eq_ofNat, ← highHalf_eq_ofNat]
  exact ⟨read _ .cycle (by decide) (by decide), read _ .cycleh (by decide) (by decide),
    read _ .instret (by decide) (by decide), read _ .instreth (by decide) (by decide)⟩

end Sys2Proof.Machine

/-! What each trap and identification CSR reads after a write (O49). -/

namespace Sys2Proof.Machine

open Sys2Proof

/-! ### Layouts as masks of the written word -/

theorem getLsbD_bitAt (n : Nat) (b : Bool) (i : Nat) (hi : i < 32) : (bitAt n b).getLsbD i = (b && decide (i = n)) := by
  cases b with
  | false => simp [bitAt]
  | true =>
    simp only [bitAt, if_true, BitVec.getLsbD_shiftLeft, hi, decide_true, Bool.true_and, BitVec.getLsbD_one]
    rw [Bool.eq_iff_iff]
    simp
    omega

/-- 10_state R34: `mstatus` keeps the bits of its one-bit fields; MPP, bits 12:11, becomes M unless 00 was written. -/
theorem Mstatus.word_ofWord (w : Word) :
    Mstatus.word (Mstatus.ofWord w)
      = (w &&& 0x00220088#32) ||| (if w.extractLsb' 11 2 = 0#2 then 0#32 else 0x00001800#32) := by
  apply BitVec.eq_of_getLsbD_eq
  intro i hi
  simp only [Mstatus.word, Mstatus.ofWord, BitVec.getLsbD_or, BitVec.getLsbD_and, getLsbD_bitAt _ _ i hi]
  split <;> interval_cases i <;> simp [Priv.code]

theorem mppField_eq_zero_iff (w : Word) : w.extractLsb' 11 2 = 0#2 ↔ w.toNat / 2048 % 4 = 0 := by
  rw [← BitVec.toNat_inj, BitVec.extractLsb'_toNat, Nat.shiftRight_eq_div_pow]
  rfl

/-- The value of two words side by side. -/
theorem toNat_append_eq_add {m n : Nat} (x : BitVec m) (y : BitVec n) :
    (x ++ y).toNat = 2 ^ n * x.toNat + y.toNat := by
  rw [BitVec.toNat_append, ← Nat.shiftLeft_add_eq_or_of_lt y.isLt, Nat.shiftLeft_eq, Nat.mul_comm]

theorem mieMask_eq (c : Config) :
    Config.mieMask c = 0x00000888#32 ||| BitVec.ofNat 32 (c.customIrqMask.toNat * 65536) := by
  have hsplit : BitVec.ofNat 32 (c.customIrqMask.toNat * 65536) = c.customIrqMask ++ 0#16 := by
    apply BitVec.eq_of_toNat_eq
    rw [toNat_append_eq_add, BitVec.toNat_ofNat]
    have := c.customIrqMask.isLt
    simp
    omega
  rw [hsplit, show (0x00000888#32 : Word) = 0#16 ++ 0x0888#16 by decide, BitVec.or_append]
  simp [Config.mieMask]

theorem ofNat_mul_eight (n : Nat) : BitVec.ofNat 32 (n * 8) = BitVec.ofNat 32 n <<< 3 := by
  apply BitVec.eq_of_toNat_eq
  simp [Nat.shiftLeft_eq, Nat.mod_mul_mod]

theorem mcountinhibitMask_eq (c : Config) :
    Config.mcountinhibitMask c = 5#32 ||| BitVec.ofNat 32 ((2 ^ c.hpmNum.val - 1) * 8) := by
  rw [ofNat_mul_eight]
  rfl

/-- 10_state R39. -/
theorem mhpmevent_eq (c : Config) (k : Fin 10) :
    Config.mhpmevent c k = if k.val < c.hpmNum.val then BitVec.ofNat 32 (2 ^ (k.val + 3)) else 0#32 := by
  have hbit : 1#32 <<< (k.val + 3) = BitVec.ofNat 32 (2 ^ (k.val + 3)) := by
    revert k
    decide
  simp only [Config.mhpmevent, Config.hpmImplemented, decide_eq_true_eq, hbit]

/-! ### mtvec (10_state R37) -/

theorem toNat_and_three (w : Word) : (w &&& 3#32).toNat = w.toNat % 4 := by
  rw [BitVec.toNat_and]
  exact Nat.and_two_pow_sub_one_eq_mod w.toNat 2

theorem toNat_mtvecMode (c : Config) (old w : Word) :
    (Config.mtvecMode c old w).toNat
      = match c.mtvecModeFixed with
        | .direct => 0
        | .vectored => 1
        | .free => if w.toNat % 4 < 2 then w.toNat % 4 else old.toNat % 4 := by
  have hbit : w.getLsbD 1 = true ↔ ¬w.toNat % 4 < 2 := by
    rw [BitVec.getLsbD, Nat.testBit_succ, Nat.testBit_zero, decide_eq_true_eq]
    omega
  unfold Config.mtvecMode
  cases c.mtvecModeFixed with
  | direct => rfl
  | vectored => rfl
  | free =>
    simp only [hbit, ite_not]
    split
    · exact toNat_and_three w
    · exact toNat_and_three old

theorem mtvecMode_lt (c : Config) (old w : Word) : (Config.mtvecMode c old w).toNat < 4 := by
  rw [toNat_mtvecMode]
  split
  · decide
  · decide
  · split <;> omega

/-- The base loses its low bits, and the mode takes the place of two of them. -/
theorem toNat_mtvec {c : Config} (h2 : 2 ≤ c.mtvecBaseAlign) (old w : Word) :
    (Config.mtvecBase c w ||| Config.mtvecMode c old w).toNat
      = w.toNat / 2 ^ c.mtvecBaseAlign * 2 ^ c.mtvecBaseAlign + (Config.mtvecMode c old w).toNat := by
  have hlt : w.toNat / 2 ^ c.mtvecBaseAlign * 2 ^ c.mtvecBaseAlign < 2 ^ 32 :=
    lt_of_le_of_lt (Nat.div_mul_le_self _ _) w.isLt
  have hmode : (Config.mtvecMode c old w).toNat < 2 ^ c.mtvecBaseAlign :=
    lt_of_lt_of_le (mtvecMode_lt c old w) (Nat.pow_le_pow_right (n := 2) (by decide) h2)
  rw [BitVec.toNat_or, Config.mtvecBase, max_eq_left h2, BitVec.toNat_shiftLeft, BitVec.toNat_ushiftRight,
    Nat.shiftRight_eq_div_pow, Nat.shiftLeft_eq, Nat.mod_eq_of_lt hlt, ← Nat.shiftLeft_eq,
    ← Nat.shiftLeft_add_eq_or_of_lt hmode]

/-! ### mcause and mip (10_state R42, R44) -/

theorem State.readCsr_mcause_of_legal {s : State} {w : Word} (h : Config.mcauseLegal s.cfg w = true) :
    (s.writeCsr .mcause w).readCsr .mcause = w := by
  simp [State.readCsr, State.writeCsr, State.readMcause, h]

theorem mcauseLegal_fixed (c : Config) {w : Word}
    (h : w ∈ [0#32, 1#32, 2#32, 3#32, 5#32, 7#32, 8#32, 11#32, 0x80000003#32, 0x80000007#32, 0x8000000B#32,
      0x80000020#32]) : Config.mcauseLegal c w = true := by
  simp only [List.mem_cons, List.not_mem_nil, or_false] at h
  rcases h with rfl | rfl | rfl | rfl | rfl | rfl | rfl | rfl | rfl | rfl | rfl | rfl <;> rfl

theorem mcauseLegal_custom_line {c : Config} {n : Nat} (h16 : 16 ≤ n) (h31 : n ≤ 31)
    (h : c.customIrqMask.getLsbD (n - 16) = true) : Config.mcauseLegal c (BitVec.ofNat 32 (2 ^ 31 + n)) = true := by
  obtain ⟨k, rfl⟩ := Nat.exists_eq_add_of_le h16
  have hk : k < 16 := by omega
  have hword : BitVec.ofNat 32 (2 ^ 31 + (16 + k)) = causeWord true (16 + k) := by interval_cases k <;> rfl
  rw [Nat.add_sub_cancel_left] at h
  rw [hword]
  exact mcauseLegal_custom hk h

theorem State.toNat_mip (s : State) :
    s.mip.toNat
      = (if s.lines.software then 2 ^ 3 else 0) + (if s.lines.timer then 2 ^ 7 else 0)
        + (if s.lines.external then 2 ^ 11 else 0) + 2 ^ 16 * (s.lines.custom &&& s.cfg.customIrqMask).toNat := by
  rw [State.mip, toNat_append_eq_add, Nat.add_comm]
  cases s.lines.software <;> cases s.lines.timer <;> cases s.lines.external <;> rfl

/-- Settles O49: each register's own rule, gathered. -/
theorem csrWriteMasks : Obligations.CsrWriteMasks := by
  intro s w
  refine ⟨?mstatus, rfl, ?mie, ?mtvec, ?mcountinhibit, mhpmevent_eq s.cfg, rfl, rfl, ?mcause, rfl, s.toNat_mip, rfl,
    ?ignored, rfl, rfl, rfl, rfl, rfl, rfl, rfl, ?tselect⟩
  case mstatus =>
    simp only [← mppField_eq_zero_iff]
    exact Mstatus.word_ofWord w
  case mie => exact congrArg (w &&& ·) (mieMask_eq s.cfg)
  case mtvec => exact fun h2 _ => (toNat_mtvec h2 s.mtvec w).trans (congrArg _ (toNat_mtvecMode s.cfg s.mtvec w))
  case mcountinhibit => exact congrArg (w &&& ·) (mcountinhibitMask_eq s.cfg)
  case mcause =>
    rintro (hw | ⟨n, h16, h31, hmask, rfl⟩)
    · exact State.readCsr_mcause_of_legal (mcauseLegal_fixed s.cfg hw)
    · exact State.readCsr_mcause_of_legal (mcauseLegal_custom_line h16 h31 hmask)
  case ignored =>
    simp only [List.forall_mem_cons]
    exact ⟨rfl, rfl, rfl, rfl, rfl, nofun⟩
  case tselect =>
    show (s.writeCsr .tselect w).tselect = _
    rw [State.writeCsr_eq]
    simp

end Sys2Proof.Machine

/-! What the counters, the Debug-mode registers and the triggers read after a write (O50). -/

namespace Sys2Proof.Machine

open Sys2Proof

/-! ### The halves of a counter (10_state R55, R56) -/

theorem lowHalf_append (h l : Word) : lowHalf (h ++ l) = l := by
  apply BitVec.eq_of_toNat_eq
  have := l.isLt
  rw [lowHalf_eq_ofNat, toNat_append_eq_add, BitVec.toNat_ofNat]
  omega

theorem highHalf_append (h l : Word) : highHalf (h ++ l) = h := by
  apply BitVec.eq_of_toNat_eq
  have := h.isLt
  have := l.isLt
  rw [highHalf_eq_ofNat, toNat_append_eq_add, BitVec.toNat_ofNat]
  omega

@[simp] theorem lowHalf_setLowHalf (v : BitVec 64) (w : Word) : lowHalf (setLowHalf v w) = w := lowHalf_append _ _
@[simp] theorem highHalf_setLowHalf (v : BitVec 64) (w : Word) : highHalf (setLowHalf v w) = highHalf v :=
  highHalf_append _ _
@[simp] theorem highHalf_setHighHalf (v : BitVec 64) (w : Word) : highHalf (setHighHalf v w) = w := highHalf_append _ _
@[simp] theorem lowHalf_setHighHalf (v : BitVec 64) (w : Word) : lowHalf (setHighHalf v w) = lowHalf v :=
  lowHalf_append _ _

theorem lowHalf_and (v m : BitVec 64) : lowHalf (v &&& m) = lowHalf v &&& lowHalf m := BitVec.extractLsb'_and

theorem highHalf_and (v m : BitVec 64) : highHalf (v &&& m) = highHalf v &&& highHalf m := BitVec.extractLsb'_and

/-! ### Event counters (10_state R57) -/

/-- What event counter k + 3 reads after a write to counter j + 3. -/
theorem State.hpm_setHpm (s : State) (j k : Fin 10) (v : BitVec 64) :
    (s.setHpm j v).hpm k
      = if j = k ∧ Config.hpmImplemented s.cfg k.val = true then v &&& Config.hpmMask s.cfg else s.hpm k := by
  rw [State.setHpm_eq]
  unfold State.hpm
  dsimp only
  by_cases hjk : j = k
  · subst hjk
    cases hj : Config.hpmImplemented s.cfg j.val <;> simp
  · have hne : j.val ≠ k.val := fun h => hjk (Fin.ext h)
    cases hj : Config.hpmImplemented s.cfg j.val <;> simp [hjk, Vector.getElem_set_ne, hne]

theorem State.hpm_unimplemented {s : State} {k : Fin 10} (h : ¬k.val < s.cfg.hpmNum.val) : s.hpm k = 0#64 := by
  simp [State.hpm, Config.hpmImplemented, h]

theorem toNat_hpmMask {c : Config} (h : c.hpmWidth ≤ 64) : (Config.hpmMask c).toNat = 2 ^ c.hpmWidth - 1 := by
  have hpow : 2 ^ c.hpmWidth ≤ 2 ^ 64 := Nat.pow_le_pow_right (by decide) h
  rw [Config.hpmMask, BitVec.toNat_ofNat, Nat.mod_eq_of_lt]
  omega

/-- The mask of a counter's high half has the bits beyond the first 32, and that of its low half all. -/
theorem hpmMask_halves {c : Config} (h32 : 32 ≤ c.hpmWidth) (h64 : c.hpmWidth ≤ 64) :
    lowHalf (Config.hpmMask c) = BitVec.allOnes 32
      ∧ (highHalf (Config.hpmMask c)).toNat = 2 ^ (c.hpmWidth - 32) - 1 := by
  have hmask : (Config.hpmMask c).toNat = 2 ^ 32 * 2 ^ (c.hpmWidth - 32) - 1 := by
    rw [toNat_hpmMask h64, ← Nat.pow_add, Nat.add_sub_cancel' h32]
  have hpos : 0 < 2 ^ (c.hpmWidth - 32) := Nat.two_pow_pos _
  have hle : 2 ^ (c.hpmWidth - 32) ≤ 2 ^ 32 := Nat.pow_le_pow_right (by decide) (by omega)
  generalize 2 ^ (c.hpmWidth - 32) = p at *
  constructor
  · apply BitVec.eq_of_toNat_eq
    rw [lowHalf_eq_ofNat, BitVec.toNat_ofNat, hmask, BitVec.toNat_allOnes]
    omega
  · rw [highHalf_eq_ofNat, BitVec.toNat_ofNat, hmask]
    omega

theorem State.readCsr_mhpmcounter_write {s : State} (h32 : 32 ≤ s.cfg.hpmWidth) (h64 : s.cfg.hpmWidth ≤ 64) (k : Fin 10)
    (w : Word) :
    (s.writeCsr (.mhpmcounter k) w).readCsr (.mhpmcounter k) = if k.val < s.cfg.hpmNum.val then w else 0#32 := by
  show lowHalf ((s.setHpm k (setLowHalf (s.hpm k) w)).hpm k) = _
  rw [State.hpm_setHpm]
  by_cases hk : k.val < s.cfg.hpmNum.val
  · rw [if_pos ⟨rfl, decide_eq_true hk⟩, if_pos hk, lowHalf_and, lowHalf_setLowHalf, (hpmMask_halves h32 h64).1,
      BitVec.and_allOnes]
  · simp [Config.hpmImplemented, hk, State.hpm_unimplemented hk, lowHalf]

theorem State.readCsr_mhpmcounterh_write {s : State} (h32 : 32 ≤ s.cfg.hpmWidth) (h64 : s.cfg.hpmWidth ≤ 64) (k : Fin 10)
    (w : Word) :
    ((s.writeCsr (.mhpmcounterh k) w).readCsr (.mhpmcounterh k)).toNat
      = if k.val < s.cfg.hpmNum.val then w.toNat % 2 ^ (s.cfg.hpmWidth - 32) else 0 := by
  show (highHalf ((s.setHpm k (setHighHalf (s.hpm k) w)).hpm k)).toNat = _
  rw [State.hpm_setHpm]
  by_cases hk : k.val < s.cfg.hpmNum.val
  · rw [if_pos ⟨rfl, decide_eq_true hk⟩, if_pos hk, highHalf_and, highHalf_setHighHalf, BitVec.toNat_and,
      (hpmMask_halves h32 h64).2, Nat.and_two_pow_sub_one_eq_mod]
  · simp [Config.hpmImplemented, hk, State.hpm_unimplemented hk, highHalf]

/-! ### dcsr and the triggers (10_state R46, R47, R51) -/

/-- The read-only cause field of `dcsr`. -/
theorem Dcsr.word_and_cause (d : Dcsr) : Dcsr.word d &&& 0x000001C0#32 = d.cause.setWidth 32 <<< 6 := by
  apply BitVec.eq_of_getLsbD_eq
  intro i hi
  simp only [Dcsr.word, BitVec.getLsbD_or, BitVec.getLsbD_and, getLsbD_bitAt _ _ i hi]
  cases d.prv <;> interval_cases i <;> simp [Priv.code]

/-- Where the rule names a mode for what is written to `prv`, that mode's code is what was written. -/
theorem State.code_dcsrPrv (s : State) {w : Word} (h : w.toNat % 4 = 0 ∨ w.toNat % 4 = 3) :
    Priv.code (s.dcsrPrv w) = w.extractLsb' 0 2 := by
  have hcode : w.extractLsb' 0 2 = 0#2 ∨ w.extractLsb' 0 2 = 3#2 := by
    simpa [← BitVec.toNat_inj] using h
  rcases hcode with h0 | h3
  · rw [State.dcsrPrv, h0]
    rfl
  · rw [State.dcsrPrv, h3]
    rfl

theorem State.readCsr_dcsr_write (s : State) {w : Word} (h : w.toNat % 4 = 0 ∨ w.toNat % 4 = 3) :
    (s.writeCsr .dcsr w).readCsr .dcsr
      = 0x40000000#32 ||| (w &&& 0x00009807#32) ||| (s.readCsr .dcsr &&& 0x000001C0#32) := by
  show Dcsr.word (s.dcsrWritten w) = _ ||| (Dcsr.word s.dcsr &&& _)
  rw [Dcsr.word_and_cause]
  simp only [Dcsr.word, State.dcsrWritten, s.code_dcsrPrv h]
  apply BitVec.eq_of_getLsbD_eq
  intro i hi
  simp only [BitVec.getLsbD_or, BitVec.getLsbD_and, getLsbD_bitAt _ _ i hi]
  interval_cases i <;> simp

/-- 10_state R46, R47: only Debug mode changes the selected trigger. -/
theorem State.selectedTrigger_setTrigger (s : State) (f : Trigger → Trigger) :
    (s.setTrigger f).selectedTrigger = if s.debugMode then s.selectedTrigger.map f else s.selectedTrigger := by
  rw [State.setTrigger_eq]
  cases hd : s.debugMode <;> simp [State.selectedTrigger]

theorem State.exists_selectedTrigger {s : State} (h : s.tselect.toNat < s.triggers.length) :
    ∃ t, s.selectedTrigger = some t :=
  ⟨_, List.getElem?_eq_getElem h⟩

/-- Settles O50: each half is the one written, cut to the width of an event counter; `dcsr` keeps its writable bits over
its cause; and a trigger changes in Debug mode only. -/
theorem counterAndDebugWrites : Obligations.CounterAndDebugWrites := by
  intro s w
  refine ⟨lowHalf_setLowHalf _ _, highHalf_setHighHalf _ _, lowHalf_setLowHalf _ _, highHalf_setHighHalf _ _,
    fun h32 h64 k => ⟨State.readCsr_mhpmcounter_write h32 h64 k w, State.readCsr_mhpmcounterh_write h32 h64 k w⟩,
    rfl, rfl, rfl, s.readCsr_dcsr_write, fun hd => ?_, fun hd ht => ⟨?_, ?_⟩⟩
  · simp [State.writeCsr, State.setTrigger, hd]
  · have hbit : w.getLsbD 2 = true ↔ w.toNat / 4 % 2 = 1 := by
      rw [BitVec.getLsbD, Nat.testBit_eq_decide_div_mod_eq, decide_eq_true_eq]
    obtain ⟨t, hsel⟩ := State.exists_selectedTrigger ht
    show State.readTdata1 (s.setTrigger _) = _
    rw [State.readTdata1, State.selectedTrigger_setTrigger, hd, hsel]
    simp only [if_true, Option.map_some, hbit]
  · obtain ⟨t, hsel⟩ := State.exists_selectedTrigger ht
    show State.readTdata2 (s.setTrigger _) = _
    rw [State.readTdata2, State.selectedTrigger_setTrigger, hd, hsel]
    rfl

end Sys2Proof.Machine

/-! A write to one CSR changes what no other CSR reads (O51). -/

namespace Sys2Proof.Machine

open Sys2Proof

/-! ### Registers that share storage -/

theorem and_mask_of_within {n : Nat} {x m : BitVec n} (h : x &&& ~~~m = 0#n) : x &&& m = x := by
  apply BitVec.eq_of_getLsbD_eq
  intro i hi
  have hbit := congrArg (·.getLsbD i) h
  simp only [BitVec.getLsbD_and, BitVec.getLsbD_not, hi, decide_true, Bool.true_and, BitVec.getLsbD_zero] at hbit
  rw [BitVec.getLsbD_and]
  cases hx : x.getLsbD i <;> simp_all

theorem State.hpm_and_mask {s : State} {k : Fin 10} (h : s.hpmcounters[k] &&& ~~~(Config.hpmMask s.cfg) = 0#64) :
    s.hpm k &&& Config.hpmMask s.cfg = s.hpm k := by
  unfold State.hpm
  split
  · exact and_mask_of_within h
  · exact BitVec.zero_and

/-- An event counter is written by way of its own two halves only. -/
theorem State.hpm_writeCsr_of_ne {s : State} {c : Csr} {k : Fin 10} (hl : c ≠ .mhpmcounter k) (hh : c ≠ .mhpmcounterh k)
    (w : Word) : (s.writeCsr c w).hpm k = s.hpm k := by
  cases c with
  | mhpmcounter j =>
    have hjk : j ≠ k := fun e => hl (e ▸ rfl)
    exact (s.hpm_setHpm j k _).trans (if_neg fun h => hjk h.1)
  | mhpmcounterh j =>
    have hjk : j ≠ k := fun e => hh (e ▸ rfl)
    exact (s.hpm_setHpm j k _).trans (if_neg fun h => hjk h.1)
  | _ =>
    rw [State.writeCsr_eq]
    rfl

/-- A write to one half of an event counter leaves the other. -/
theorem State.lowHalf_hpm_writeCsr {s : State} {c : Csr} {k : Fin 10}
    (hk : s.hpmcounters[k] &&& ~~~(Config.hpmMask s.cfg) = 0#64) (hc : c ≠ .mhpmcounter k) (w : Word) :
    lowHalf ((s.writeCsr c w).hpm k) = lowHalf (s.hpm k) := by
  by_cases hh : c = .mhpmcounterh k
  · subst hh
    show lowHalf ((s.setHpm k (setHighHalf (s.hpm k) w)).hpm k) = _
    rw [State.hpm_setHpm]
    split
    · rw [lowHalf_and, lowHalf_setHighHalf, ← lowHalf_and, State.hpm_and_mask hk]
    · rfl
  · rw [State.hpm_writeCsr_of_ne hc hh]

theorem State.highHalf_hpm_writeCsr {s : State} {c : Csr} {k : Fin 10}
    (hk : s.hpmcounters[k] &&& ~~~(Config.hpmMask s.cfg) = 0#64) (hc : c ≠ .mhpmcounterh k) (w : Word) :
    highHalf ((s.writeCsr c w).hpm k) = highHalf (s.hpm k) := by
  by_cases hl : c = .mhpmcounter k
  · subst hl
    show highHalf ((s.setHpm k (setLowHalf (s.hpm k) w)).hpm k) = _
    rw [State.hpm_setHpm]
    split
    · rw [highHalf_and, highHalf_setLowHalf, ← highHalf_and, State.hpm_and_mask hk]
    · rfl
  · rw [State.hpm_writeCsr_of_ne hl hc]

section
variable {p q : Prop} [Decidable p] [Decidable q] (v : BitVec 64) (w : Word)

/-- The low half of a counter whose low half is not the one written, as `writeCsr_eq` gives it. -/
theorem lowHalf_of_not_written (hp : ¬p) :
    lowHalf (if p then setLowHalf v w else if q then setHighHalf v w else v) = lowHalf v := by
  rw [if_neg hp]
  split
  · exact lowHalf_setHighHalf v w
  · rfl

theorem highHalf_of_not_written (hq : ¬q) :
    highHalf (if p then setLowHalf v w else if q then setHighHalf v w else v) = highHalf v := by
  rw [if_neg hq]
  split
  · exact highHalf_setLowHalf v w
  · rfl

end

/-- Only the three trigger registers change the selected trigger. -/
theorem State.selectedTrigger_writeCsr {s : State} {c : Csr} (hsel : c ≠ .tselect) (h1 : c ≠ .tdata1) (h2 : c ≠ .tdata2)
    (w : Word) : (s.writeCsr c w).selectedTrigger = s.selectedTrigger := by
  rw [State.writeCsr_eq]
  simp [State.selectedTrigger, hsel, h1, h2]

/-- The two registers of a trigger write different fields of it. -/
theorem State.readTdata1_writeCsr {s : State} {c : Csr} (hsel : c ≠ .tselect) (h1 : c ≠ .tdata1) (w : Word) :
    (s.writeCsr c w).readTdata1 = s.readTdata1 := by
  by_cases h2 : c = .tdata2
  · subst h2
    show State.readTdata1 (s.setTrigger _) = _
    rw [State.readTdata1, State.readTdata1, State.selectedTrigger_setTrigger]
    cases s.debugMode <;> cases s.selectedTrigger <;> rfl
  · rw [State.readTdata1, State.selectedTrigger_writeCsr hsel h1 h2, State.readTdata1]

theorem State.readTdata2_writeCsr {s : State} {c : Csr} (hsel : c ≠ .tselect) (h2 : c ≠ .tdata2) (w : Word) :
    (s.writeCsr c w).readTdata2 = s.readTdata2 := by
  by_cases h1 : c = .tdata1
  · subst h1
    show State.readTdata2 (s.setTrigger _) = _
    rw [State.readTdata2, State.readTdata2, State.selectedTrigger_setTrigger]
    cases s.debugMode <;> cases s.selectedTrigger <;> rfl
  · rw [State.readTdata2, State.selectedTrigger_writeCsr hsel h1 h2, State.readTdata2]

/-! ### Every pair of registers -/

theorem State.readCsr_writeCsr_of_not_reflects {s : State} {c d : Csr}
    (hk : ∀ k : Fin 10, s.hpmcounters[k] &&& ~~~(Config.hpmMask s.cfg) = 0#64) (h : ¬c.reflects d) (w : Word) :
    (s.writeCsr c w).readCsr d = s.readCsr d := by
  have hne : c ≠ d := fun e => h (.inl e)
  cases d with
  | mcycle | cycle | minstret | instret =>
    rw [State.writeCsr_eq]
    exact lowHalf_of_not_written _ _ fun e => h (by simp [Csr.reflects, e])
  | mcycleh | cycleh | minstreth | instreth =>
    rw [State.writeCsr_eq]
    exact highHalf_of_not_written _ _ fun e => h (by simp [Csr.reflects, e])
  | mhpmcounter k => exact State.lowHalf_hpm_writeCsr (hk k) hne w
  | mhpmcounterh k => exact State.highHalf_hpm_writeCsr (hk k) hne w
  | tdata1 => exact State.readTdata1_writeCsr (fun e => h (by simp [Csr.reflects, e])) hne w
  | tdata2 => exact State.readTdata2_writeCsr (fun e => h (by simp [Csr.reflects, e])) hne w
  | tselect =>
    rw [State.writeCsr_eq]
    exact if_neg fun e => hne e.1
  | mcause =>
    rw [State.writeCsr_eq]
    simp only [State.readCsr, State.readMcause, if_neg hne]
  | mstatus | mie | mtvec | mcountinhibit | mscratch | mepc | mtval | dcsr | dpc | dscratch0 | dscratch1 | cpuctrl =>
    rw [State.writeCsr_eq]
    simp only [State.readCsr, if_neg hne]
  | misa | mhpmevent _ | mip | tdata3 | mcontext | scontext | mvendorid | marchid | mimpid | mhartid =>
    rw [State.writeCsr_eq]
    rfl

/-- Settles O51: register by register for what is read, and the frame of a CSR write for everything else. -/
theorem csrWriteFrame : Obligations.CsrWriteFrame := by
  intro s c d w hk h
  obtain ⟨-, -, hpc, hpriv, hdebug, -⟩ := s.writeCsr_frame c w
  exact ⟨State.readCsr_writeCsr_of_not_reflects hk h w, s.writeCsr_reg c w, s.writeCsr_byteAt c w, hpc, hpriv, hdebug⟩

end Sys2Proof.Machine

/-! Decoding what was encoded (30_encoding R149), and the step that runs what stands at pc. -/

namespace Sys2Proof

/-- The CI and the C.ADDI16SP immediate are the same six bits of the parcel in two orders. -/
theorem cImm16sp_eq_zero_of_cImm6 {p : BitVec 16} (h : cImm6 p = 0#6) : cImm16sp p = 0#6 := by
  have hbit : ∀ i, (cImm6 p).getLsbD i = false := by simp [h]
  have h0 := hbit 0
  have h1 := hbit 1
  have h2 := hbit 2
  have h3 := hbit 3
  have h4 := hbit 4
  have h5 := hbit 5
  simp only [cImm6, BitVec.getLsbD_append, BitVec.getLsbD_extractLsb'] at h0 h1 h2 h3 h4 h5
  apply BitVec.eq_of_getLsbD_eq
  intro i hi
  simp only [cImm16sp, BitVec.getLsbD_append, BitVec.getLsbD_extractLsb']
  interval_cases i <;> simp_all

/-- The round trip of the encoder: each format's fields are read back where they were written, and the opcode fields
select the row they were taken from. -/
theorem decode_encode {i : Instr} (h : i.wellFormed = true) : decode (encode i) = .ok i := by
  cases i with
  | lui | auipc => simp [encode, encU, decode, decodeFull, encU_fOpcode, encU_fRd, encU_fImmU]
  | jal => simp [encode, encJ, decode, decodeFull, encJ_fOpcode, encJ_fRd, encJ_fImmJ]
  | jalr =>
    simp [encode, encI, decode, decodeFull, encI_fOpcode, encI_fFunct3, encI_fRd, encI_fRs1, encI_fImm12]
  | beq | bne | blt | bge | bltu | bgeu =>
    simp [encode, encB, decode, decodeFull, decodeBranch, encB_fOpcode, encB_fFunct3, encB_fRs1, encB_fRs2,
      encB_fImmB]
  | lb | lh | lw | lbu | lhu =>
    simp [encode, encI, decode, decodeFull, decodeLoad, encI_fOpcode, encI_fFunct3, encI_fRd, encI_fRs1, encI_fImm12]
  | sb | sh | sw =>
    simp [encode, encS, decode, decodeFull, decodeStore, encS_fOpcode, encS_fFunct3, encS_fRs1, encS_fRs2, encS_fImmS]
  | addi | slti | sltiu | xori | ori | andi =>
    simp [encode, encI, decode, decodeFull, decodeOpImm, encI_fOpcode, encI_fFunct3, encI_fRd, encI_fRs1, encI_fImm12]
  | slli | srli | srai =>
    simp [encode, encR, decode, decodeFull, decodeOpImm, encR_fOpcode, encR_fFunct3, encR_fFunct7, encR_fRd,
      encR_fRs1, encR_fRs2]
  | add | sub | sll | slt | sltu | xor | srl | sra | or | and =>
    simp [encode, encR, decode, decodeFull, decodeOp, decodeOpBase, encR_fOpcode, encR_fFunct3, encR_fFunct7,
      encR_fRd, encR_fRs1, encR_fRs2]
  | mul | mulh | mulhsu | mulhu | div | divu | rem | remu =>
    simp [encode, encR, decode, decodeFull, decodeOp, decodeOpMul, encR_fOpcode, encR_fFunct3, encR_fFunct7,
      encR_fRd, encR_fRs1, encR_fRs2]
  | fence =>
    simp [encode, encFence, decode, decodeFull, decodeMiscMem, encFence_fOpcode, encFence_fFunct3, encFence_fFm,
      encFence_fPred, encFence_fSucc, encFence_fRs1, encFence_fRd]
  | fenceI =>
    simp [encode, encI, decode, decodeFull, decodeMiscMem, encI_fOpcode, encI_fFunct3, encI_fRd, encI_fRs1,
      encI_fImm12]
  | csrrw | csrrs | csrrc | csrrwi | csrrsi | csrrci =>
    simp [encode, encI, decode, decodeFull, decodeSystem, encI_fOpcode, encI_fFunct3, encI_fRd, encI_fRs1,
      encI_fImm12]
  | ecall | ebreak | mret | wfi | dret | cEbreak => rfl
  | cAddi4spn _ imm =>
    have himm : imm ≠ 0#8 := by simpa [Instr.wellFormed] using h
    simp [encode, encCIW, decode, decodeHalf, decodeQ0, encCIW_cOp, encCIW_cFunct3, encCIW_cImm4spn, encCIW_cRs2',
      himm]
  | cLw | cSw =>
    simp [encode, encCLS, decode, decodeHalf, decodeQ0, encCLS_cOp, encCLS_cFunct3, encCLS_cImmLw, encCLS_cRs1',
      encCLS_cRs2']
  | cNop | cLi => simp [encode, encCI, decode, decodeHalf, decodeQ1, encCI_cOp, encCI_cFunct3, encCI_cRd, encCI_cImm6]
  | cAddi rd _ =>
    have hrd : rd ≠ 0#5 := by simpa [Instr.wellFormed] using h
    simp [encode, encCI, decode, decodeHalf, decodeQ1, encCI_cOp, encCI_cFunct3, encCI_cRd, encCI_cImm6, hrd]
  | cJal | cJ => simp [encode, encCJ, decode, decodeHalf, decodeQ1, encCJ_cOp, encCJ_cFunct3, encCJ_cImmJ]
  | cAddi16sp imm =>
    have himm : imm ≠ 0#6 := by simpa [Instr.wellFormed] using h
    have hne := mt cImm16sp_eq_zero_of_cImm6 (encC16sp_cImm16sp imm ▸ himm)
    simp [encode, encC16sp, decode, decodeHalf, decodeQ1, encC16sp_cOp, encC16sp_cFunct3, encC16sp_cRd,
      encC16sp_cImm16sp, hne]
  | cLui rd imm =>
    obtain ⟨hrd, himm⟩ : rd ≠ 2#5 ∧ imm ≠ 0#6 := by simpa [Instr.wellFormed] using h
    simp [encode, encCI, decode, decodeHalf, decodeQ1, encCI_cOp, encCI_cFunct3, encCI_cRd, encCI_cImm6, hrd, himm]
  | cSrli | cSrai =>
    simp [-BitVec.reduceAppend, encode, encCBAlu, decode, decodeHalf, decodeQ1, decodeQ1Alu, encCBAlu_cOp,
      encCBAlu_cFunct3, encCBAlu_cBit12, encCBAlu_cFunct2, encCBAlu_cRs1', encCBAlu_cShamt]
  | cAndi =>
    simp [encode, encCBAlu, decode, decodeHalf, decodeQ1, decodeQ1Alu, encCBAlu_cOp, encCBAlu_cFunct3,
      encCBAlu_cFunct2, encCBAlu_cRs1', encCAndi_cImm6]
  | cSub | cXor | cOr | cAnd =>
    simp [-BitVec.reduceAppend, encode, encCA, decode, decodeHalf, decodeQ1, decodeQ1Alu, encCA_cOp, encCA_cFunct3,
      encCA_cBit12, encCA_cFunct2, encCA_cFunct2', encCA_cRs1', encCA_cRs2']
  | cBeqz | cBnez =>
    simp [encode, encCB, decode, decodeHalf, decodeQ1, encCB_cOp, encCB_cFunct3, encCB_cRs1', encCB_cImmB]
  | cSlli =>
    simp [-BitVec.reduceAppend, encode, encCR, decode, decodeHalf, decodeQ2, encCR_cOp, encCR_cFunct3, encCR_cBit12,
      encCR_cRd, encCR_cShamt]
  | cLwsp rd _ =>
    have hrd : rd ≠ 0#5 := by simpa [Instr.wellFormed] using h
    simp [encode, encCLwsp, decode, decodeHalf, decodeQ2, encCLwsp_cOp, encCLwsp_cFunct3, encCLwsp_cRd,
      encCLwsp_cImmLwsp, hrd]
  | cJr r | cJalr r | cMv _ r | cAdd _ r =>
    have hr : r ≠ 0#5 := by simpa [Instr.wellFormed] using h
    simp [-BitVec.reduceAppend, encode, encCR, decode, decodeHalf, decodeQ2, decodeQ2Cr, encCR_cOp, encCR_cFunct3,
      encCR_cBit12, encCR_cRd, encCR_cRs2, hr]
  | cSwsp =>
    simp [encode, encCSwsp, decode, decodeHalf, decodeQ2, encCSwsp_cOp, encCSwsp_cFunct3, encCSwsp_cRs2,
      encCSwsp_cImmSwsp]

end Sys2Proof

/-! A step that runs what stands at pc, and what a step adds to the counters (O53). -/

namespace Sys2Proof

/-! ### The length of what decodes (30_encoding R141) -/

theorem parcelIsFull_of_decodeFull {w : BitVec 32} {i : Instr} (h : decodeFull w = .ok i) :
    parcelIsFull (w.extractLsb' 0 16) = true := by
  apply parcelIsFull_low
  by_contra hlow
  have hop : ∀ op : BitVec 7, op.extractLsb' 0 2 = 3#2 → fOpcode w ≠ op := fun op hop e => hlow (e ▸ hop)
  simp [decodeFull, hop] at h

theorem parcelIsFull_of_decodeHalf {p : BitVec 16} {i : Instr} (h : decodeHalf p = .ok i) :
    parcelIsFull p = false := by
  apply parcelIsFull_half
  intro hop
  simp [decodeHalf, hop] at h

end Sys2Proof

namespace Sys2Proof.Machine

open Sys2Proof

/-! ### The instruction that stands at pc -/

/-- 20_memory R112: what stands at pc, if it decodes, is what a fetch gives. -/
theorem State.fetchAt_of_stands {s : State} {b : InstrBits} {i : Instr} (h : StandsAtPc s b) (hd : decode b = .ok i) :
    s.fetchAt s.pc = .bits b := by
  cases b with
  | half p => exact State.fetchAt_half h (parcelIsFull_of_decodeHalf hd)
  | full w => exact State.fetchAt_full h (parcelIsFull_of_decodeFull hd)

theorem State.runInstr_of_stands {s : State} {i : Instr} (hpc : s.pc.getLsbD 0 = false) (hwf : i.wellFormed = true)
    (h : StandsAtPc s (encode i)) : s.runInstr = exec i s := by
  have hdec := decode_encode hwf
  simp [State.runInstr, -BitVec.getLsbD_eq_getElem, hpc, State.fetchAt_of_stands h hdec, hdec]

theorem State.runAwake_of_stands {s : State} {i : Instr} (hp : s.preempt = none) (hpc : s.pc.getLsbD 0 = false)
    (hwf : i.wellFormed = true) (h : StandsAtPc s (encode i)) : s.runAwake = exec i s := by
  rw [State.runAwake, hp]
  exact State.runInstr_of_stands hpc hwf h

/-! ### What a step does to the counters before time passes -/

/-- The three kinds of counters are the same. -/
def SameCounters (s u : State) : Prop :=
  u.minstret = s.minstret ∧ u.mcycle = s.mcycle ∧ u.hpmcounters = s.hpmcounters

/-- 60_exceptions R360: an instruction that does not retire has counted and logged nothing. -/
theorem Effect.of_not_retired {s t : State} (he : Effect s t) (h : t.log.retired = false) :
    t.log = StepLog.empty ∧ SameCounters s t := by
  cases he with
  | trap | ebreak => exact ⟨rfl, rfl, rfl, rfl⟩
  | loadFault u e v hu =>
    rw [hu]
    exact ⟨rfl, rfl, rfl, rfl⟩
  | storeFault u e v hu =>
    rw [hu.1]
    exact ⟨rfl, rfl, rfl, rfl⟩
  | write | move | load | store | csr | fenceI | mret | wfi | dret => cases h

/-- An event that comes before the instruction has counted and logged nothing. -/
theorem State.preempt_idle {s u : State} (hs : s.log = StepLog.empty) (h : s.preempt = some u) :
    u.log = StepLog.empty ∧ SameCounters s u := by
  rcases State.preempt_cases h with ⟨c, rfl⟩ | rfl | ⟨n, -, rfl⟩
  · exact ⟨hs, rfl, rfl, rfl⟩
  · exact ⟨rfl, rfl, rfl, rfl⟩
  · exact ⟨rfl, rfl, rfl, rfl⟩

/-- The addresses of the halves of `mcycle` and `minstret` (10_state R32). -/
theorem csrOf_counter {a : CsrAddr} :
    (csrOf a = some .mcycle → a = 0xB00#12) ∧ (csrOf a = some .mcycleh → a = 0xB80#12)
      ∧ (csrOf a = some .minstret → a = 0xB02#12) ∧ (csrOf a = some .minstreth → a = 0xB82#12) := by
  simp only [csrOf_eq_some_iff, ← BitVec.toNat_inj]
  simp [csrTable]

/-- The counters after an instruction: as before, or as its one CSR write left them, which its log then names. -/
theorem Effect.counters {s t : State} (he : Effect s t) :
    (t.log.wroteCsr = none ∧ SameCounters s t)
      ∨ ∃ c a w, csrOf a = some c ∧ CsrAllowed s a true ∧ t.log.wroteCsr = some a
          ∧ SameCounters (s.writeCsr c w) t := by
  cases he with
  | csr c a rd v w writes hc hd =>
    cases writes with
    | false => exact .inl ⟨rfl, by simp [SameCounters]⟩
    | true => exact .inr ⟨c, a, w, hc, State.csrDenied_iff.1 hd, rfl, by simp [SameCounters]⟩
  | load u rd v npc hu =>
    rw [hu]
    exact .inl ⟨rfl, by simp [SameCounters]⟩
  | loadFault u e v hu =>
    rw [hu]
    exact .inl ⟨rfl, rfl, rfl, rfl⟩
  | store u npc hu =>
    rw [hu.1]
    exact .inl ⟨rfl, rfl, rfl, rfl⟩
  | storeFault u e v hu =>
    rw [hu.1]
    exact .inl ⟨rfl, rfl, rfl, rfl⟩
  | write rd v npc => exact .inl ⟨rfl, by simp [SameCounters]⟩
  | trap | move | fenceI | mret | wfi | dret | ebreak => exact .inl ⟨rfl, rfl, rfl, rfl⟩

/-- An instruction that writes neither half of `minstret` leaves it. -/
theorem Effect.minstret_kept {s t : State} (he : Effect s t) (hl : t.log.wroteCsr ≠ some 0xB02#12)
    (hh : t.log.wroteCsr ≠ some 0xB82#12) : t.minstret = s.minstret := by
  rcases he.counters with ⟨-, hm, -⟩ | ⟨c, a, w, hc, -, hlog, hm, -⟩
  · exact hm
  · obtain ⟨-, -, haddr, haddrh⟩ := csrOf_counter (a := a)
    have hcl : c ≠ .minstret := fun e => hl (hlog.trans (congrArg some (haddr (e ▸ hc))))
    have hch : c ≠ .minstreth := fun e => hh (hlog.trans (congrArg some (haddrh (e ▸ hc))))
    rw [hm, State.writeCsr_eq]
    simp [hcl, hch]

/-- An instruction that writes neither half of `mcycle` leaves it. -/
theorem Effect.mcycle_kept {s t : State} (he : Effect s t) (hl : t.log.wroteCsr ≠ some 0xB00#12)
    (hh : t.log.wroteCsr ≠ some 0xB80#12) : t.mcycle = s.mcycle := by
  rcases he.counters with ⟨-, -, hm, -⟩ | ⟨c, a, w, hc, -, hlog, -, hm, -⟩
  · exact hm
  · obtain ⟨haddr, haddrh, -⟩ := csrOf_counter (a := a)
    have hcl : c ≠ .mcycle := fun e => hl (hlog.trans (congrArg some (haddr (e ▸ hc))))
    have hch : c ≠ .mcycleh := fun e => hh (hlog.trans (congrArg some (haddrh (e ▸ hc))))
    rw [hm, State.writeCsr_eq]
    simp [hcl, hch]

/-- 10_state R31 (b): a CSR that U-mode writes is one that U-mode may access. -/
theorem Effect.wroteCsr_user {s t : State} (he : Effect s t) (hp : s.priv = .U) {a : CsrAddr}
    (h : t.log.wroteCsr = some a) : a.toNat / 256 % 4 = 0 := by
  rcases he.counters with ⟨hnone, -⟩ | ⟨c, b, w, -, ⟨hpriv, -⟩, hlog, -⟩
  · rw [hnone] at h
    cases h
  · rw [hlog] at h
    cases h
    exact hpriv.resolve_left (by simp [hp])

/-! ### The passing of time (10_state R62) -/

/-- The counters at the end `t` of a step that began in `s`, of which the hart's part left `u`. -/
structure Counted (s u t : State) : Prop where
  minstret : t.minstret = s.nextMinstret u
  mcycle : t.mcycle = s.nextMcycle u
  hpm : ∀ k : Fin 10, t.hpmcounters[k] = s.nextHpm u k.val u.hpmcounters[k]

/-- An entry to Debug mode after a single step counts nothing. -/
theorem State.singleStep_counts (s u : State) :
    (s.singleStep u).log = u.log ∧ (s.singleStep u).draws = u.draws ∧ SameCounters u (s.singleStep u) := by
  rcases s.singleStep_cases u with e | e
  · rw [e]
    exact ⟨rfl, rfl, rfl, rfl, rfl⟩
  · rw [e]
    exact ⟨rfl, rfl, rfl, rfl, rfl⟩

/-- The passing of time reads what the step began with, `b`, for the configuration and for what is inhibited only. -/
theorem Counted.of_tick {s b u v : State} (hc : b.cfg = s.cfg) (hi : b.mcountinhibit = s.mcountinhibit)
    (hlog : v.log = u.log) (hdraws : v.draws = u.draws) (hv : SameCounters u v) : Counted s u (b.tick v) := by
  obtain ⟨hminstret, hmcycle, hhpm⟩ := hv
  refine ⟨?_, ?_, fun k => ?_⟩
  · simp [State.nextMinstret, hi, hlog, hminstret]
  · simp [State.nextMcycle, hi, hlog, hdraws, hmcycle]
  · simp [State.nextHpm, hc, hi, hdraws, hhpm]

/-- An awake hart that is not reset does what `runAwake` answers, and then time passes. -/
theorem step_of_runAwake {s u : State} (hr : s.input.reset = false) (hs : s.beginStep.staysAsleep = false)
    (hu : s.beginStep.awake.runAwake = .next u) : ∃ t, step s = .next t ∧ Counted s u t := by
  refine ⟨_, ?_, Counted.of_tick (b := s.beginStep.awake) (v := s.beginStep.awake.singleStep u) (by simp) (by simp)
    (State.singleStep_counts _ _).1 (State.singleStep_counts _ _).2.1 (State.singleStep_counts _ _).2.2⟩
  rw [step_of_not_reset hr, State.hartStep, hs, hu]
  rfl

theorem step_counted {s t : State} (hr : s.input.reset = false) (h : step s = .next t) :
    ∃ u, Counted s u t ∧ ((s.beginStep.staysAsleep = true ∧ u = s.beginStep)
      ∨ (s.beginStep.staysAsleep = false ∧ s.beginStep.awake.runAwake = .next u)) := by
  have hstep := h
  rw [step_of_not_reset hr] at h
  rcases State.hartStep_cases h with ⟨hs, rfl⟩ | ⟨hs, u, hu, -⟩
  · exact ⟨s.beginStep, Counted.of_tick (by simp) (by simp) rfl rfl ⟨rfl, rfl, rfl⟩, .inl ⟨hs, rfl⟩⟩
  · obtain ⟨t', ht', hcount⟩ := step_of_runAwake hr hs hu
    cases hstep.symm.trans ht'
    exact ⟨u, hcount, .inr ⟨hs, hu⟩⟩

section
variable {s u t : State} (h : Counted s u t)
include h

/-- What time adds to `minstret` when the instruction wrote no half of it. -/
theorem Counted.minstret_of_kept (hl : u.log.wroteCsr ≠ some 0xB02#12) (hh : u.log.wroteCsr ≠ some 0xB82#12)
    (hm : u.minstret = s.minstret) :
    t.minstret
      = if u.log.retired = true ∧ s.mcountinhibit.getLsbD 2 = false then s.minstret + 1#64 else s.minstret := by
  rw [h.minstret, State.nextMinstret, hm]
  simp only [hl, hh, ne_eq, not_false_eq_true, and_true]

theorem Counted.minstret_of_written (hw : u.log.wroteCsr = some 0xB02#12 ∨ u.log.wroteCsr = some 0xB82#12) :
    t.minstret = u.minstret := by
  rw [h.minstret, State.nextMinstret]
  exact if_neg fun ⟨_, _, hl, hh⟩ => hw.elim hl hh

theorem Counted.mcycle_of_kept (hd : u.draws = s.draws) (hl : u.log.wroteCsr ≠ some 0xB00#12)
    (hh : u.log.wroteCsr ≠ some 0xB80#12) (hm : u.mcycle = s.mcycle) :
    t.mcycle = if s.mcountinhibit.getLsbD 0 = false then s.mcycle + BitVec.ofNat 64 (1 + Config.freeCycles s.draws)
      else s.mcycle := by
  rw [h.mcycle, State.nextMcycle, hm, hd]
  simp only [hl, hh, ne_eq, not_false_eq_true, and_true]

theorem Counted.mcycle_of_written (hw : u.log.wroteCsr = some 0xB00#12 ∨ u.log.wroteCsr = some 0xB80#12) :
    t.mcycle = u.mcycle := by
  rw [h.mcycle, State.nextMcycle]
  exact if_neg fun ⟨_, hl, hh⟩ => hw.elim hl hh

theorem Counted.hpm_eq (hd : u.draws = s.draws) (k : Fin 10) :
    t.hpmcounters[k]
      = if k.val < s.cfg.hpmNum.val ∧ s.mcountinhibit.getLsbD (k.val + 3) = false then
          (u.hpmcounters[k] + BitVec.ofNat 64 (Config.freeEvents k.val s.draws)) &&& Config.hpmMask s.cfg
        else u.hpmcounters[k] := by
  rw [h.hpm, State.nextHpm, hd]
  simp only [Config.hpmImplemented, decide_eq_true_eq]

end

/-- The advance of `mcycle` as the statements write it, by the inhibit bit set. -/
theorem ite_inhibited {α : Sort _} (b : Bool) (x y : α) :
    (if b = false then x else y) = if b = true then y else x := by
  cases b <;> rfl

/-! ### The clauses of O53 -/

/-- A step that ran an instruction which did not retire, or none, whatever else it did. -/
theorem Counted.of_idle {s u t : State} (h : Counted s u t) (hd : u.draws = s.draws) (hlog : u.log = StepLog.empty)
    (hu : SameCounters s u) :
    t.minstret = s.minstret
      ∧ t.mcycle = (if s.mcountinhibit.getLsbD 0 = true then s.mcycle
          else s.mcycle + BitVec.ofNat 64 (1 + Config.freeCycles s.draws))
      ∧ ∀ k : Fin 10, t.hpmcounters[k]
          = (if k.val < s.cfg.hpmNum.val ∧ s.mcountinhibit.getLsbD (k.val + 3) = false then
              (s.hpmcounters[k] + BitVec.ofNat 64 (Config.freeEvents k.val s.draws)) &&& Config.hpmMask s.cfg
            else s.hpmcounters[k]) := by
  obtain ⟨hminstret, hmcycle, hhpm⟩ := hu
  have hnone : ∀ a : CsrAddr, u.log.wroteCsr ≠ some a := by simp [hlog, StepLog.empty]
  refine ⟨?_, ?_, fun k => ?_⟩
  · rw [h.minstret_of_kept (hnone _) (hnone _) hminstret]
    exact if_neg fun hret => by simp [hlog, StepLog.empty] at hret
  · rw [h.mcycle_of_kept hd (hnone _) (hnone _) hmcycle, ite_inhibited]
  · rw [h.hpm_eq hd, hhpm]

theorem State.runAwake_idle {s u : State} (hs : s.log = StepLog.empty) (h : s.runAwake = .next u)
    (hidle : s.preempt.isSome = true ∨ ∃ v, s.runInstr = .next v ∧ v.log.retired = false) :
    u.log = StepLog.empty ∧ SameCounters s u := by
  rcases State.runAwake_cases h with hp | ⟨hp, hrun⟩
  · exact State.preempt_idle hs hp
  · obtain ⟨v, hv, hret⟩ := hidle.resolve_left (by simp [hp])
    cases hrun.symm.trans hv
    exact (State.runInstr_effect hrun).of_not_retired hret

theorem State.beginStep_sameCounters (s : State) : SameCounters s s.beginStep.awake := by simp [SameCounters]

/-- No step of U-mode writes a half of `mcycle` or `minstret`. -/
theorem State.runAwake_user {s u : State} (hs : s.log = StepLog.empty) (hp : s.priv = .U) (h : s.runAwake = .next u) :
    (∀ a ∈ [0xB00#12, 0xB80#12, 0xB02#12, 0xB82#12], u.log.wroteCsr ≠ some a)
      ∧ u.minstret = s.minstret ∧ u.mcycle = s.mcycle := by
  rcases State.runAwake_cases h with hpre | ⟨-, hrun⟩
  · obtain ⟨hlog, hminstret, hmcycle, -⟩ := State.preempt_idle hs hpre
    exact ⟨fun a _ => by simp [hlog, StepLog.empty], hminstret, hmcycle⟩
  · have he := State.runInstr_effect hrun
    have hno : ∀ a ∈ [0xB00#12, 0xB80#12, 0xB02#12, 0xB82#12], u.log.wroteCsr ≠ some a := by
      intro a ha hw
      have hlow := he.wroteCsr_user hp hw
      simp only [List.mem_cons, List.not_mem_nil, or_false] at ha
      rcases ha with rfl | rfl | rfl | rfl <;> simp at hlow
    exact ⟨hno, he.minstret_kept (hno _ (by simp)) (hno _ (by simp)),
      he.mcycle_kept (hno _ (by simp)) (hno _ (by simp))⟩

/-- Settles O53: what the instruction did to the counters, and then what time adds. -/
theorem stepCounting : Obligations.StepCounting := by
  refine ⟨?runs, ?idle, ?user⟩
  case runs =>
    intro s u i hr hs hp hpc hwf hst hexec
    have hpc' : s.beginStep.awake.pc.getLsbD 0 = false := by simpa using hpc
    have hrun : s.beginStep.awake.runAwake = .next u := (State.runAwake_of_stands hp hpc' hwf hst).trans hexec
    have he : Effect s.beginStep.awake u := exec_effect i hexec
    have hd : u.draws = s.draws := by simpa using he.cfg_draws.2
    obtain ⟨hm, hc, -⟩ := State.beginStep_sameCounters s
    obtain ⟨t, ht, hcount⟩ := step_of_runAwake hr hs hrun
    refine ⟨t, ht, ?_, ?_, hcount.hpm_eq hd⟩
    · split
      · rename_i hw
        exact hcount.minstret_of_written hw
      · rename_i hw
        obtain ⟨hl, hh⟩ := not_or.mp hw
        exact hcount.minstret_of_kept hl hh ((he.minstret_kept hl hh).trans hm)
    · split
      · rename_i hw
        exact hcount.mcycle_of_written hw
      · rename_i hw
        obtain ⟨hl, hh⟩ := not_or.mp hw
        exact hcount.mcycle_of_kept hd hl hh ((he.mcycle_kept hl hh).trans hc)
  case idle =>
    intro s t hr ht hidle
    obtain ⟨u, hcount, ⟨hs, rfl⟩ | ⟨hs, hu⟩⟩ := step_counted hr ht
    · exact Counted.of_idle hcount (by simp) rfl (State.beginStep_sameCounters s)
    · obtain ⟨hlog, hm, hc, hh⟩ := State.runAwake_idle rfl hu (hidle.resolve_left (by simp [hs]))
      obtain ⟨hm', hc', hh'⟩ := State.beginStep_sameCounters s
      have hd : u.draws = s.draws := by simpa using (State.runAwake_cfg_draws hu).2
      exact Counted.of_idle hcount hd hlog ⟨hm.trans hm', hc.trans hc', hh.trans hh'⟩
  case user =>
    intro s t hp hdebug hr ht
    obtain ⟨u, hcount, ⟨hs, rfl⟩ | ⟨hs, hu⟩⟩ := step_counted hr ht
    · obtain ⟨hm, hc, -⟩ := Counted.of_idle hcount (by simp) rfl (State.beginStep_sameCounters s)
      exact ⟨.inl hm, hc⟩
    · obtain ⟨hno, hm, hc⟩ := State.runAwake_user rfl (by simpa using hp) hu
      obtain ⟨hm', hc', -⟩ := State.beginStep_sameCounters s
      have hd : u.draws = s.draws := by simpa using (State.runAwake_cfg_draws hu).2
      have hminstret := hcount.minstret_of_kept (hno _ (by simp)) (hno _ (by simp)) (hm.trans hm')
      have hmcycle := hcount.mcycle_of_kept hd (hno _ (by simp)) (hno _ (by simp)) (hc.trans hc')
      refine ⟨?_, hmcycle.trans (ite_inhibited _ _ _)⟩
      rw [hminstret]
      split
      · rename_i hinc
        exact .inr ⟨rfl, hinc.2⟩
      · exact .inl rfl

end Sys2Proof.Machine

/-! Loads and stores by what they are (O33, O34): every instruction of a form is the shared operation on it. -/

namespace Sys2Proof.Machine

open Sys2Proof

/-! ### Effective addresses (42 R230, 46 R282, R283, R301, R307) -/

theorem State.effAddr_eq_baseAddr (s : State) (rs1 : Reg) (imm : BitVec 12) : s.effAddr rs1 imm = s.baseAddr rs1 imm := by
  have hreg : BitVec.ofInt 32 (s.reg rs1).toNat = s.reg rs1 := by
    rw [BitVec.ofInt_natCast, BitVec.ofNat_toNat, BitVec.setWidth_eq]
  unfold State.effAddr State.baseAddr
  rw [BitVec.ofInt_add, hreg]
  rfl

/-- A compressed offset counts words. -/
theorem setWidth_append_zero_eq {n : Nat} (imm : BitVec n) :
    (imm ++ 0#2).setWidth 32 = BitVec.ofNat 32 (4 * imm.toNat) := by
  apply BitVec.eq_of_toNat_eq
  rw [BitVec.toNat_setWidth, toNat_append_eq_add, BitVec.toNat_ofNat]
  rfl

theorem State.reg_add_eq_wordAddr {n : Nat} (s : State) (r : Reg) (imm : BitVec n) :
    s.reg r + (imm ++ 0#2).setWidth 32 = s.wordAddr r imm.toNat := by
  unfold State.wordAddr
  rw [setWidth_append_zero_eq, BitVec.ofNat_add, BitVec.ofNat_toNat, BitVec.setWidth_eq]

/-! ### Loads and stores as the shared operations -/

theorem sext8_ofNat (n : Nat) : sext8 (BitVec.ofNat 32 n) = BitVec.ofInt 32 (BitVec.ofNat 8 n).toInt := by
  unfold sext8
  rw [BitVec.setWidth_ofNat_of_le (by decide)]
  rfl

theorem sext16_ofNat (n : Nat) : sext16 (BitVec.ofNat 32 n) = BitVec.ofInt 32 (BitVec.ofNat 16 n).toInt := by
  unfold sext16
  rw [BitVec.setWidth_ofNat_of_le (by decide)]
  rfl

/-- Every load is `State.load` on its form, with the extension that the form's result describes. -/
theorem exec_of_loadForm {s : State} {i : Instr} {f : LoadForm} (h : loadForm s i = some f) :
    ∃ ext : Word → Word, (∀ n : Nat, ext (BitVec.ofNat 32 n) = f.result n)
      ∧ exec i s = s.load i f.ilen f.rd f.ea f.width ext := by
  cases i with
  | lb rd rs1 imm =>
    cases h
    exact ⟨sext8, sext8_ofNat, by rw [← State.effAddr_eq_baseAddr]; rfl⟩
  | lh rd rs1 imm =>
    cases h
    exact ⟨sext16, sext16_ofNat, by rw [← State.effAddr_eq_baseAddr]; rfl⟩
  | lw rd rs1 imm =>
    cases h
    exact ⟨id, fun _ => rfl, by rw [← State.effAddr_eq_baseAddr]; rfl⟩
  | lbu rd rs1 imm =>
    cases h
    exact ⟨id, fun _ => rfl, by rw [← State.effAddr_eq_baseAddr]; rfl⟩
  | lhu rd rs1 imm =>
    cases h
    exact ⟨id, fun _ => rfl, by rw [← State.effAddr_eq_baseAddr]; rfl⟩
  | cLw rd rs1 imm =>
    cases h
    exact ⟨id, fun _ => rfl, by rw [← State.reg_add_eq_wordAddr]; rfl⟩
  | cLwsp rd imm =>
    cases h
    exact ⟨id, fun _ => rfl, by rw [← State.reg_add_eq_wordAddr]; rfl⟩
  | _ => cases h

/-- Every store is `State.store` on its form. -/
theorem exec_of_storeForm {s : State} {i : Instr} {f : StoreForm} (h : storeForm s i = some f) :
    exec i s = s.store i f.ilen f.ea f.width f.value := by
  cases i with
  | sb rs1 rs2 imm => cases h; rw [← State.effAddr_eq_baseAddr]; rfl
  | sh rs1 rs2 imm => cases h; rw [← State.effAddr_eq_baseAddr]; rfl
  | sw rs1 rs2 imm => cases h; rw [← State.effAddr_eq_baseAddr]; rfl
  | cSw rs1 rs2 imm => cases h; rw [← State.reg_add_eq_wordAddr]; rfl
  | cSwsp rs2 imm => cases h; rw [← State.reg_add_eq_wordAddr]; rfl
  | _ => cases h

/-! ### Devices and faulting stores -/

/-- Settles O34: a load or a store that devices answer, for every form. -/
theorem deviceAccesses : Obligations.DeviceAccesses := by
  refine fun s i hregs => ⟨fun f hf hd => ?_, fun f hf hd => ?_⟩
  · obtain ⟨ext, hext, hexec⟩ := exec_of_loadForm hf
    rw [hexec, ← hext]
    exact State.load_device hregs f.ilen f.rd ext hd
  · rw [exec_of_storeForm hf]
    exact State.store_device hregs f.ilen hd

/-- Settles O33: what the fault of a write leaves in memory and on the bus, and the trap taken over it. -/
theorem storeFaults : Obligations.StoreFaults := by
  intro s i f pre post p hx hregs hm hf hsplit hpre hp
  obtain ⟨u, hw, hbus, houtside, hinside, hfaulting, hplain⟩ := State.memWrite_fault (v := f.value) hm hsplit hpre hp
  obtain ⟨hstore, htrap⟩ := State.store_fault hregs hx f.ilen hw
  refine ⟨u.trap false 7 p.addr s.pc, (exec_of_storeForm hf).trans hstore, ?_, houtside, hinside, hfaulting, hplain⟩
  simp only [State.trap_mem, State.trap_stale, State.trap_msip, State.trap_mtimecmp, State.trap_mtime,
    State.trap_device]
  unfold OnlyBus at hbus
  rwa [← hbus]

end Sys2Proof.Machine

/-! The bytes of plain memory, as they are read, fetched and carried by transfers (O12, O38, O31). -/

namespace Sys2Proof.Machine

open Sys2Proof

/-- Settles O12: read after write, for the byte written and for every other one. -/
theorem readAfterWrite : Obligations.ReadAfterWrite := fun s a v hm =>
  ⟨State.byteAt_storeByte_same hm a v, fun _ hne => State.byteAt_storeByte_other s hne v, Memory.wf_writeByte hm a v⟩

/-! ### What a byte is fetched as (20_memory R127) -/

theorem State.fetchedByte_memory {s : State} (hs : s.cfg.sharedImemDmem = true) (a : Word) :
    s.fetchedByte .memory a = s.byteAt a := by
  simp [State.fetchedByte, hs]

theorem State.fetchByte_of_staleAt_nil {s : State} {a : Word} (h : s.staleAt a = []) (ans : Answer) :
    s.fetchByte ans a = s.fetchedByte ans a := by
  simp [State.fetchByte, h]

/-- Whatever the free choice, the byte is the one that stands or a stale one. -/
theorem State.fetchByte_cases (s : State) (ans : Answer) (a : Word) :
    s.fetchByte ans a = s.fetchedByte ans a ∨ s.fetchByte ans a ∈ s.staleAt a := by
  cases h : s.staleAt a with
  | nil => exact .inl (State.fetchByte_of_staleAt_nil h ans)
  | cons old olds =>
    simp only [State.fetchByte, h]
    cases Config.freeStale s.draws a with
    | zero => exact .inl rfl
    | succ n =>
      rw [List.getD_cons_succ]
      by_cases hn : n < (old :: olds).length
      · rw [List.getD_eq_getElem _ _ hn]
        exact .inr (List.getElem_mem hn)
      · exact .inl (List.getD_eq_default _ _ (Nat.le_of_not_lt hn))

/-- Settles O38: a fetch gives the present value or a stale one, and a store makes the value it replaces stale. -/
theorem fetchCoherence : Obligations.FetchCoherence := by
  intro s a hs
  rw [← State.fetchedByte_memory hs]
  refine ⟨s.fetchByte_cases .memory a, fun hnone => ?_, fun v => ?_⟩
  · exact State.fetchByte_of_staleAt_nil (by simp [State.staleAt, hnone]) .memory
  · exact State.mem_staleAt_storeByte hs (.inl (State.fetchedByte_memory hs a)) v

/-! ### The transfers of an access (20_memory R108) -/

/-- The low bits of an address, read as a number. -/
theorem extractLsb'_zero_eq_ofNat_iff (a : Word) (n k : Nat) :
    a.extractLsb' 0 n = BitVec.ofNat n k ↔ a.toNat % 2 ^ n = k % 2 ^ n := by
  rw [← BitVec.toNat_inj, BitVec.extractLsb'_toNat, BitVec.toNat_ofNat, Nat.shiftRight_zero]

theorem splitAccess_half (m : MisalignedSplit) (a : Word) :
    splitAccess m a .half =
      if a.toNat % 4 = 3 ∨ (m = .byteHalf ∧ a.toNat % 4 = 1) then [⟨a, 1⟩, ⟨a + 1#32, 1⟩] else [⟨a, 2⟩] := by
  cases m with
  | twoCycles => simp [splitAccess, extractLsb'_zero_eq_ofNat_iff]
  | byteHalf =>
    have hodd : a.toNat % 2 = 1 ↔ a.toNat % 4 = 3 ∨ a.toNat % 4 = 1 := by omega
    simp [splitAccess, extractLsb'_zero_eq_ofNat_iff, hodd]

theorem splitAccess_word (m : MisalignedSplit) (a : Word) :
    splitAccess m a .word =
      if a.toNat % 4 = 0 then [⟨a, 4⟩]
      else if a.toNat % 4 = 2 then [⟨a, 2⟩, ⟨a + 2#32, 2⟩]
      else if m = .byteHalf then [⟨a, 1⟩, ⟨a + 1#32, 2⟩, ⟨a + 3#32, 1⟩]
      else if a.toNat % 4 = 1 then [⟨a, 3⟩, ⟨a + 3#32, 1⟩]
      else [⟨a, 1⟩, ⟨a + 1#32, 3⟩] := by
  cases m <;> simp [splitAccess, extractLsb'_zero_eq_ofNat_iff]

/-- Settles O31: the rows of the table, by the low two bits of the address. -/
theorem accessParts : Obligations.AccessParts := by
  intro a
  refine ⟨fun _ => rfl, fun heven m => ?_, fun h m => ?_, fun h => ?_, fun h m => ?_, fun h => ?_⟩
  · rw [splitAccess_half, if_neg (by omega)]
  · rw [splitAccess_word, if_pos h]
  · simp [splitAccess_half, splitAccess_word, h]
  · simp [splitAccess_word, h]
  · simp [splitAccess_half, splitAccess_word, h]

end Sys2Proof.Machine

/-! The decoder read backwards: what it takes from a word puts the word together again (30_encoding R149), and the
statements about decoding (O1..O4). -/

namespace Sys2Proof

/-! ### A word is its fields (R142..R144)

One lemma per 32-bit format: the encoder of the format, given the fields of a word, writes that word. -/

section Full

variable {w : BitVec 32} {f3 : BitVec 3} {f7 op : BitVec 7}

theorem encR_of_fields (h7 : fFunct7 w = f7) (h3 : fFunct3 w = f3) (hop : fOpcode w = op) :
    encR f7 (fRs2 w) (fRs1 w) f3 (fRd w) op = .full w := by
  subst h7 h3 hop
  refine congrArg InstrBits.full (BitVec.eq_of_getLsbD_eq fun i hi => ?_)
  simp only [fFunct7, fRs2, fRs1, fFunct3, fRd, fOpcode, BitVec.getLsbD_append, BitVec.getLsbD_extractLsb']
  interval_cases i <;> simp

theorem encI_of_fields (h3 : fFunct3 w = f3) (hop : fOpcode w = op) :
    encI (fImm12 w) (fRs1 w) f3 (fRd w) op = .full w := by
  subst h3 hop
  refine congrArg InstrBits.full (BitVec.eq_of_getLsbD_eq fun i hi => ?_)
  simp only [fImm12, fRs1, fFunct3, fRd, fOpcode, BitVec.getLsbD_append, BitVec.getLsbD_extractLsb']
  interval_cases i <;> simp

theorem encS_of_fields (h3 : fFunct3 w = f3) (hop : fOpcode w = op) :
    encS (fImmS w) (fRs2 w) (fRs1 w) f3 op = .full w := by
  subst h3 hop
  refine congrArg InstrBits.full (BitVec.eq_of_getLsbD_eq fun i hi => ?_)
  simp only [fImmS, fRs2, fRs1, fFunct3, fOpcode, BitVec.getLsbD_append, BitVec.getLsbD_extractLsb']
  interval_cases i <;> simp

theorem encB_of_fields (h3 : fFunct3 w = f3) (hop : fOpcode w = op) :
    encB (fImmB w) (fRs2 w) (fRs1 w) f3 op = .full w := by
  subst h3 hop
  refine congrArg InstrBits.full (BitVec.eq_of_getLsbD_eq fun i hi => ?_)
  simp only [fImmB, fRs2, fRs1, fFunct3, fOpcode, BitVec.getLsbD_append, BitVec.getLsbD_extractLsb']
  interval_cases i <;> simp

theorem encU_of_fields (hop : fOpcode w = op) : encU (fImmU w) (fRd w) op = .full w := by
  subst hop
  refine congrArg InstrBits.full (BitVec.eq_of_getLsbD_eq fun i hi => ?_)
  simp only [fImmU, fRd, fOpcode, BitVec.getLsbD_append, BitVec.getLsbD_extractLsb']
  interval_cases i <;> simp

theorem encJ_of_fields (hop : fOpcode w = op) : encJ (fImmJ w) (fRd w) op = .full w := by
  subst hop
  refine congrArg InstrBits.full (BitVec.eq_of_getLsbD_eq fun i hi => ?_)
  simp only [fImmJ, fRd, fOpcode, BitVec.getLsbD_append, BitVec.getLsbD_extractLsb']
  interval_cases i <;> simp

theorem encFence_of_fields (h3 : fFunct3 w = 0#3) (hop : fOpcode w = 0x0F#7) :
    encFence (fFm w) (fPred w) (fSucc w) (fRs1 w) (fRd w) = .full w := by
  rw [encFence, ← h3, ← hop]
  refine congrArg InstrBits.full (BitVec.eq_of_getLsbD_eq fun i hi => ?_)
  simp only [fFm, fPred, fSucc, fRs1, fFunct3, fRd, fOpcode, BitVec.getLsbD_append, BitVec.getLsbD_extractLsb']
  interval_cases i <;> simp

end Full

/-! ### A parcel is its fields (R159..R161) -/

section Half

variable {p : BitVec 16} {op f2 : BitVec 2} {f3 : BitVec 3} {b12 : BitVec 1}

theorem encCI_of_fields (h3 : cFunct3 p = f3) (hop : cOp p = op) : encCI f3 (cImm6 p) (cRd p) op = .half p := by
  subst h3 hop
  refine congrArg InstrBits.half (BitVec.eq_of_getLsbD_eq fun i hi => ?_)
  simp only [cFunct3, cImm6, cRd, cOp, BitVec.getLsbD_append, BitVec.getLsbD_extractLsb']
  interval_cases i <;> simp

theorem encCR_of_fields (h3 : cFunct3 p = f3) (h12 : cBit12 p = b12) (hop : cOp p = op) :
    encCR f3 b12 (cRd p) (cRs2 p) op = .half p := by
  subst h3 h12 hop
  refine congrArg InstrBits.half (BitVec.eq_of_getLsbD_eq fun i hi => ?_)
  simp only [cFunct3, cBit12, cRd, cRs2, cOp, BitVec.getLsbD_append, BitVec.getLsbD_extractLsb']
  interval_cases i <;> simp

theorem encCLS_of_fields (h3 : cFunct3 p = f3) (hop : cOp p = 0#2) :
    encCLS f3 (cImmLw p) (cRs1' p) (cRs2' p) = .half p := by
  subst h3
  rw [encCLS, ← hop]
  refine congrArg InstrBits.half (BitVec.eq_of_getLsbD_eq fun i hi => ?_)
  simp only [cFunct3, cImmLw, cRs1', cRs2', cOp, BitVec.getLsbD_append, BitVec.getLsbD_extractLsb']
  interval_cases i <;> simp

theorem encCIW_of_fields (h3 : cFunct3 p = 0#3) (hop : cOp p = 0#2) :
    encCIW (cImm4spn p) (cRs2' p) = .half p := by
  rw [encCIW, ← h3, ← hop]
  refine congrArg InstrBits.half (BitVec.eq_of_getLsbD_eq fun i hi => ?_)
  simp only [cFunct3, cImm4spn, cRs2', cOp, BitVec.getLsbD_append, BitVec.getLsbD_extractLsb']
  interval_cases i <;> simp

theorem encCBAlu_of_fields (h3 : cFunct3 p = 4#3) (h12 : cBit12 p = b12) (h2 : cFunct2 p = f2) (hop : cOp p = 1#2) :
    encCBAlu b12 f2 (cRs1' p) (cShamt p) = .half p := by
  subst h12 h2
  rw [encCBAlu, ← h3, ← hop]
  refine congrArg InstrBits.half (BitVec.eq_of_getLsbD_eq fun i hi => ?_)
  simp only [cFunct3, cBit12, cFunct2, cRs1', cShamt, cOp, BitVec.getLsbD_append, BitVec.getLsbD_extractLsb']
  interval_cases i <;> simp

theorem encCA_of_fields (h3 : cFunct3 p = 4#3) (h12 : cBit12 p = 0#1) (h2 : cFunct2 p = 3#2) (h2' : cFunct2' p = f2)
    (hop : cOp p = 1#2) : encCA f2 (cRs1' p) (cRs2' p) = .half p := by
  subst h2'
  rw [encCA, ← h3, ← h12, ← h2, ← hop]
  refine congrArg InstrBits.half (BitVec.eq_of_getLsbD_eq fun i hi => ?_)
  simp only [cFunct3, cBit12, cFunct2, cRs1', cFunct2', cRs2', cOp, BitVec.getLsbD_append, BitVec.getLsbD_extractLsb']
  interval_cases i <;> simp

theorem encCJ_of_fields (h3 : cFunct3 p = f3) (hop : cOp p = 1#2) : encCJ f3 (cImmJ p) = .half p := by
  subst h3
  rw [encCJ, ← hop]
  refine congrArg InstrBits.half (BitVec.eq_of_getLsbD_eq fun i hi => ?_)
  simp only [cFunct3, cImmJ, cOp, BitVec.getLsbD_append, BitVec.getLsbD_extractLsb']
  interval_cases i <;> simp

theorem encCB_of_fields (h3 : cFunct3 p = f3) (hop : cOp p = 1#2) : encCB f3 (cRs1' p) (cImmB p) = .half p := by
  subst h3
  rw [encCB, ← hop]
  refine congrArg InstrBits.half (BitVec.eq_of_getLsbD_eq fun i hi => ?_)
  simp only [cFunct3, cRs1', cImmB, cOp, BitVec.getLsbD_append, BitVec.getLsbD_extractLsb']
  interval_cases i <;> simp

theorem encC16sp_of_fields (h3 : cFunct3 p = 3#3) (hrd : cRd p = 2#5) (hop : cOp p = 1#2) :
    encC16sp (cImm16sp p) = .half p := by
  rw [encC16sp, ← h3, ← hrd, ← hop]
  refine congrArg InstrBits.half (BitVec.eq_of_getLsbD_eq fun i hi => ?_)
  simp only [cFunct3, cRd, cImm16sp, cOp, BitVec.getLsbD_append, BitVec.getLsbD_extractLsb']
  interval_cases i <;> simp

theorem encCLwsp_of_fields (h3 : cFunct3 p = 2#3) (hop : cOp p = 2#2) :
    encCLwsp (cRd p) (cImmLwsp p) = .half p := by
  rw [encCLwsp, ← h3, ← hop]
  refine congrArg InstrBits.half (BitVec.eq_of_getLsbD_eq fun i hi => ?_)
  simp only [cFunct3, cRd, cImmLwsp, cOp, BitVec.getLsbD_append, BitVec.getLsbD_extractLsb']
  interval_cases i <;> simp

theorem encCSwsp_of_fields (h3 : cFunct3 p = 6#3) (hop : cOp p = 2#2) :
    encCSwsp (cRs2 p) (cImmSwsp p) = .half p := by
  rw [encCSwsp, ← h3, ← hop]
  refine congrArg InstrBits.half (BitVec.eq_of_getLsbD_eq fun i hi => ?_)
  simp only [cFunct3, cRs2, cImmSwsp, cOp, BitVec.getLsbD_append, BitVec.getLsbD_extractLsb']
  interval_cases i <;> simp

/-- The two pieces of the CI immediate are where C.ANDI's format has bit 12 and the shift amount. -/
theorem cImm6_high (p : BitVec 16) : (cImm6 p).extractLsb' 5 1 = cBit12 p := by
  refine BitVec.eq_of_getLsbD_eq fun i hi => ?_
  simp only [cImm6, cBit12, BitVec.getLsbD_append, BitVec.getLsbD_extractLsb']
  interval_cases i
  simp

theorem cImm6_low (p : BitVec 16) : (cImm6 p).extractLsb' 0 5 = cShamt p := by
  refine BitVec.eq_of_getLsbD_eq fun i hi => ?_
  simp only [cImm6, cShamt, BitVec.getLsbD_append, BitVec.getLsbD_extractLsb']
  interval_cases i <;> simp

/-- `cImm16sp_eq_zero_of_cImm6` from the other side. -/
theorem cImm6_eq_zero_of_cImm16sp (h : cImm16sp p = 0#6) : cImm6 p = 0#6 := by
  have hbit : ∀ i, (cImm16sp p).getLsbD i = false := by simp [h]
  have h0 := hbit 0
  have h1 := hbit 1
  have h2 := hbit 2
  have h3 := hbit 3
  have h4 := hbit 4
  have h5 := hbit 5
  simp only [cImm16sp, BitVec.getLsbD_append, BitVec.getLsbD_extractLsb'] at h0 h1 h2 h3 h4 h5
  refine BitVec.eq_of_getLsbD_eq fun i hi => ?_
  simp only [cImm6, BitVec.getLsbD_append, BitVec.getLsbD_extractLsb']
  interval_cases i <;> simp_all

end Half

/-! ### What each table of the decoder reads is what the encoder writes -/

/-- What was read from the bits `b` encodes to `b` and is well-formed; a rejection reads nothing. -/
def ReadsBack (b : InstrBits) (r : Except DecodeReject Instr) : Prop :=
  ∀ i : Instr, r = .ok i → encode i = b ∧ i.wellFormed = true

namespace ReadsBack

variable {b : InstrBits}

@[simp] theorem error {e : DecodeReject} : ReadsBack b (.error e) := nofun

theorem ok {i : Instr} (henc : encode i = b) (hwf : i.wellFormed = true) : ReadsBack b (.ok i) := by
  rintro _ ⟨⟩
  exact ⟨henc, hwf⟩

@[simp] theorem ok_iff {i : Instr} : ReadsBack b (.ok i) ↔ encode i = b ∧ i.wellFormed = true :=
  ⟨fun h => h i rfl, fun ⟨henc, hwf⟩ => .ok henc hwf⟩

/-- One row of a table, and the rows after it. -/
theorem ite {c : Prop} [Decidable c] {r q : Except DecodeReject Instr} (hr : c → ReadsBack b r)
    (hq : ¬c → ReadsBack b q) : ReadsBack b (if c then r else q) := by
  split
  · exact hr ‹c›
  · exact hq ‹¬c›

end ReadsBack

section Full

variable {w : BitVec 32}

theorem readsBack_decodeBranch (hop : fOpcode w = 0x63#7) : ReadsBack (.full w) (decodeBranch w) := by
  unfold decodeBranch
  split_ifs <;> simp [encode, encB_of_fields, Instr.wellFormed, *]

theorem readsBack_decodeLoad (hop : fOpcode w = 0x03#7) : ReadsBack (.full w) (decodeLoad w) := by
  unfold decodeLoad
  split_ifs <;> simp [encode, encI_of_fields, Instr.wellFormed, *]

theorem readsBack_decodeStore (hop : fOpcode w = 0x23#7) : ReadsBack (.full w) (decodeStore w) := by
  unfold decodeStore
  split_ifs <;> simp [encode, encS_of_fields, Instr.wellFormed, *]

theorem funct3_cases (f : BitVec 3) :
    f = 0#3 ∨ f = 1#3 ∨ f = 2#3 ∨ f = 3#3 ∨ f = 4#3 ∨ f = 5#3 ∨ f = 6#3 ∨ f = 7#3 := by
  revert f
  decide

/-- The shifts to the right have the one funct3 that the rows before them leave. -/
theorem readsBack_decodeOpImm (hop : fOpcode w = 0x13#7) : ReadsBack (.full w) (decodeOpImm w) :=
  .ite (fun h0 => .ok (encI_of_fields h0 hop) rfl) fun h0 =>
  .ite (fun h2 => .ok (encI_of_fields h2 hop) rfl) fun h2 =>
  .ite (fun h3 => .ok (encI_of_fields h3 hop) rfl) fun h3 =>
  .ite (fun h4 => .ok (encI_of_fields h4 hop) rfl) fun h4 =>
  .ite (fun h6 => .ok (encI_of_fields h6 hop) rfl) fun h6 =>
  .ite (fun h7 => .ok (encI_of_fields h7 hop) rfl) fun h7 =>
  .ite (fun h1 => .ite (fun hf => .ok (encR_of_fields hf h1 hop) rfl) fun _ => .error) fun h1 =>
  have h5 : fFunct3 w = 5#3 := by bv_omega
  .ite (fun hf => .ok (encR_of_fields hf h5 hop) rfl) fun _ =>
  .ite (fun hf => .ok (encR_of_fields hf h5 hop) rfl) fun _ => .error

theorem readsBack_decodeOpBase (h7 : fFunct7 w = 0x00#7) (hop : fOpcode w = 0x33#7) :
    ReadsBack (.full w) (.ok (decodeOpBase w)) := by
  rcases funct3_cases (fFunct3 w) with h | h | h | h | h | h | h | h <;>
    simp [decodeOpBase, encode, encR_of_fields, Instr.wellFormed, *]

theorem readsBack_decodeOpMul (h7 : fFunct7 w = 0x01#7) (hop : fOpcode w = 0x33#7) :
    ReadsBack (.full w) (.ok (decodeOpMul w)) := by
  rcases funct3_cases (fFunct3 w) with h | h | h | h | h | h | h | h <;>
    simp [decodeOpMul, encode, encR_of_fields, Instr.wellFormed, *]

theorem readsBack_decodeOp (hop : fOpcode w = 0x33#7) : ReadsBack (.full w) (decodeOp w) :=
  .ite (fun hbase => readsBack_decodeOpBase hbase hop) fun _ =>
  .ite (fun hmul => readsBack_decodeOpMul hmul hop) fun _ =>
  .ite (fun halt =>
    .ite (fun hsub => .ok (encR_of_fields halt hsub hop) rfl) fun _ =>
    .ite (fun hsra => .ok (encR_of_fields halt hsra hop) rfl) fun _ => .error) fun _ => .error

theorem readsBack_decodeMiscMem (hop : fOpcode w = 0x0F#7) : ReadsBack (.full w) (decodeMiscMem w) :=
  .ite (fun h0 => .ok (encFence_of_fields h0 hop) rfl) fun _ =>
  .ite (fun h1 => .ok (encI_of_fields h1 hop) rfl) fun _ => .error

/-- The rows without operands are whole words. -/
theorem readsBack_decodeSystem (hop : fOpcode w = 0x73#7) : ReadsBack (.full w) (decodeSystem w) := by
  unfold decodeSystem
  repeat' split
  all_goals simp [encode, encI_of_fields, Instr.wellFormed, *]

/-- Each major opcode has its table (R145). -/
theorem readsBack_decodeFull (w : BitVec 32) : ReadsBack (.full w) (decodeFull w) :=
  .ite (fun hlui => .ok (encU_of_fields hlui) rfl) fun _ =>
  .ite (fun hauipc => .ok (encU_of_fields hauipc) rfl) fun _ =>
  .ite (fun hjal => .ok (encJ_of_fields hjal) rfl) fun _ =>
  .ite (fun hjalr => .ite (fun h0 => .ok (encI_of_fields h0 hjalr) rfl) fun _ => .error) fun _ =>
  .ite readsBack_decodeBranch fun _ =>
  .ite readsBack_decodeLoad fun _ =>
  .ite readsBack_decodeStore fun _ =>
  .ite readsBack_decodeOpImm fun _ =>
  .ite readsBack_decodeOp fun _ =>
  .ite readsBack_decodeMiscMem fun _ =>
  .ite readsBack_decodeSystem fun _ => .error

end Full

section Half

variable {p : BitVec 16}

theorem readsBack_decodeQ0 (hop : cOp p = 0#2) : ReadsBack (.half p) (decodeQ0 p) := by
  unfold decodeQ0
  split_ifs <;> simp [encode, encCIW_of_fields, encCLS_of_fields, Instr.wellFormed, *]

/-- C.ANDI has the CI immediate in the places of bit 12 and the shift amount; where funct2 is 11, bit 12 is 0 and
funct2' selects one of four rows. -/
theorem readsBack_decodeQ1Alu (h3 : cFunct3 p = 4#3) (hop : cOp p = 1#2) : ReadsBack (.half p) (decodeQ1Alu p) :=
  .ite (fun h0 => .ite (fun h12 => .ok (encCBAlu_of_fields h3 h12 h0 hop) rfl) fun _ => .error) fun h0 =>
  .ite (fun h1 => .ite (fun h12 => .ok (encCBAlu_of_fields h3 h12 h1 hop) rfl) fun _ => .error) fun h1 =>
  .ite (fun h2 => .ok (by rw [encode, cImm6_high, cImm6_low, encCBAlu_of_fields h3 rfl h2 hop]) rfl) fun h2 =>
  .ite (fun _ => .error) fun h12 =>
  have hbit : cBit12 p = 0#1 := by bv_omega
  have hca : cFunct2 p = 3#2 := by bv_omega
  .ite (fun hsub => .ok (encCA_of_fields h3 hbit hca hsub hop) rfl) fun hsub =>
  .ite (fun hxor => .ok (encCA_of_fields h3 hbit hca hxor hop) rfl) fun hxor =>
  .ite (fun hor => .ok (encCA_of_fields h3 hbit hca hor hop) rfl) fun hor =>
  have hand : cFunct2' p = 3#2 := by bv_omega
  .ok (encCA_of_fields h3 hbit hca hand hop) rfl

/-- C.ADDI16SP's immediate is not zero because the CI immediate of the same parcel is not. -/
theorem readsBack_decodeQ1 (hop : cOp p = 1#2) : ReadsBack (.half p) (decodeQ1 p) :=
  .ite (fun h0 =>
    .ite (fun hnop => .ok (by rw [encode, ← hnop, encCI_of_fields h0 hop]) rfl) fun hrd =>
    .ok (encCI_of_fields h0 hop) (decide_eq_true hrd)) fun h0 =>
  .ite (fun h1 => .ok (encCJ_of_fields h1 hop) rfl) fun h1 =>
  .ite (fun h2 => .ok (encCI_of_fields h2 hop) rfl) fun h2 =>
  .ite (fun h3 =>
    .ite (fun _ => .error) fun himm =>
    have himm16 : cImm16sp p ≠ 0#6 := mt cImm6_eq_zero_of_cImm16sp himm
    .ite (fun hsp => .ok (encC16sp_of_fields h3 hsp hop) (decide_eq_true himm16)) fun hrd =>
    .ok (encCI_of_fields h3 hop) (by simp [Instr.wellFormed, hrd, himm])) fun h3 =>
  .ite (fun h4 => readsBack_decodeQ1Alu h4 hop) fun h4 =>
  .ite (fun h5 => .ok (encCJ_of_fields h5 hop) rfl) fun h5 =>
  .ite (fun h6 => .ok (encCB_of_fields h6 hop) rfl) fun h6 =>
  have h7 : cFunct3 p = 7#3 := by bv_omega
  .ok (encCB_of_fields h7 hop) rfl

/-- Bit 12 and the two register fields select the row; C.EBREAK is the one parcel where all three are fixed. -/
theorem readsBack_decodeQ2Cr (h3 : cFunct3 p = 4#3) (hop : cOp p = 2#2) : ReadsBack (.half p) (decodeQ2Cr p) :=
  .ite (fun h0 =>
    .ite (fun hrs2 =>
      .ite (fun _ => .error) fun hrd =>
      .ok (by rw [encode, ← hrs2, encCR_of_fields h3 h0 hop]) (decide_eq_true hrd)) fun hrs2 =>
    .ok (encCR_of_fields h3 h0 hop) (decide_eq_true hrs2)) fun h0 =>
  have h1 : cBit12 p = 1#1 := by bv_omega
  .ite (fun hrs2 =>
    .ite (fun hrd => .ok (by rw [← encCR_of_fields h3 h1 hop, hrd, hrs2]; rfl) rfl) fun hrd =>
    .ok (by rw [encode, ← hrs2, encCR_of_fields h3 h1 hop]) (decide_eq_true hrd)) fun hrs2 =>
  .ok (encCR_of_fields h3 h1 hop) (decide_eq_true hrs2)

theorem readsBack_decodeQ2 (hop : cOp p = 2#2) : ReadsBack (.half p) (decodeQ2 p) :=
  .ite (fun h0 => .ite (fun h12 => .ok (encCR_of_fields h0 h12 hop) rfl) fun _ => .error) fun _ =>
  .ite (fun h2 =>
    .ite (fun _ => .error) fun hrd => .ok (encCLwsp_of_fields h2 hop) (decide_eq_true hrd)) fun _ =>
  .ite (fun h4 => readsBack_decodeQ2Cr h4 hop) fun _ =>
  .ite (fun h6 => .ok (encCSwsp_of_fields h6 hop) rfl) fun _ => .error

/-- Each quadrant has its table. -/
theorem readsBack_decodeHalf (p : BitVec 16) : ReadsBack (.half p) (decodeHalf p) :=
  .ite readsBack_decodeQ0 fun _ => .ite readsBack_decodeQ1 fun _ => .ite readsBack_decodeQ2 fun _ => .error

end Half

theorem readsBack_decode (b : InstrBits) : ReadsBack b (decode b) := by
  cases b with
  | half p => exact readsBack_decodeHalf p
  | full w => exact readsBack_decodeFull w

/-! ### The statements -/

/-- Settles O1: the round trip, format by format. -/
theorem decodeEncode : Obligations.DecodeEncode := fun _ hwf => decode_encode hwf

/-- Settles O2: table by table, what the decoder reads encodes to the bits it was read from. -/
theorem encodeDecode : Obligations.EncodeDecode := readsBack_decode

theorem fOpcode_toNat (w : BitVec 32) : (fOpcode w).toNat = w.toNat % 128 := by
  simp [fOpcode, BitVec.extractLsb'_toNat]

/-- Settles O4: the decoder asks for the eleven opcodes one after the other, and none of them is there. -/
theorem otherOpcodesRefused : Obligations.OtherOpcodesRefused := by
  intro w hw
  have hop : ∀ op : BitVec 7, op.toNat ∈ [0x37, 0x17, 0x6F, 0x67, 0x63, 0x03, 0x23, 0x13, 0x33, 0x0F, 0x73] →
      fOpcode w ≠ op := by
    rintro op hmem rfl
    exact hw (fOpcode_toNat w ▸ hmem)
  exact ⟨.unimplementedOpcode w, by simp [decode, decodeFull, hop]⟩

/-- Settles O3: each word is read by its table. -/
theorem specWordsDecode : Obligations.SpecWordsDecode :=
  ⟨rfl, rfl, rfl, rfl, rfl, rfl, rfl, rfl, rfl, rfl, rfl, rfl⟩

end Sys2Proof

/-! RV32I computation (40_rv32i_compute R181..R201): what each of its instructions writes, as arithmetic on numbers, and
the statements about them (O14..O18). -/

namespace Sys2Proof

/-! ### The operations on words as arithmetic on numbers (00_scope R9) -/

theorem ofInt_toNat {w : Nat} (a : BitVec w) : BitVec.ofInt w a.toNat = a := by
  rw [BitVec.ofInt_natCast, BitVec.ofNat_toNat, BitVec.setWidth_eq]

theorem sub_eq_ofInt {w : Nat} (a b : BitVec w) : a - b = BitVec.ofInt w (a.toNat - b.toNat) := by
  rw [Int.sub_eq_add_neg, BitVec.ofInt_add, BitVec.ofInt_neg, ofInt_toNat, ofInt_toNat, BitVec.sub_eq_add_neg]

theorem shiftLeft_eq_ofNat {w : Nat} (a : BitVec w) (n : Nat) : a <<< n = BitVec.ofNat w (a.toNat * 2 ^ n) := by
  rw [← Nat.shiftLeft_eq]
  rfl

theorem ushiftRight_eq_ofNat {w : Nat} (a : BitVec w) (n : Nat) : a >>> n = BitVec.ofNat w (a.toNat / 2 ^ n) := by
  rw [← Nat.shiftRight_eq_div_pow, ← BitVec.toNat_ushiftRight, BitVec.ofNat_toNat, BitVec.setWidth_eq]

/-- An arithmetic right shift rounds toward minus infinity, as division by a positive number does. -/
theorem sshiftRight_eq_ofInt {w : Nat} (a : BitVec w) (n : Nat) :
    a.sshiftRight n = BitVec.ofInt w (a.toInt / 2 ^ n) := by
  have hdiv : a.toInt >>> n = a.toInt / 2 ^ n := by exact_mod_cast Int.shiftRight_eq_div_pow a.toInt n
  rw [← hdiv, ← BitVec.toInt_sshiftRight, BitVec.ofInt_toInt]

end Sys2Proof

namespace Sys2Proof.Machine

open Sys2Proof

/-! ### The operands -/

theorem shamtOf_eq_mod (v : Word) : shamtOf v = v.toNat % 32 := BitVec.extractLsb'_toNat 0 5 v

theorem immI_eq_ofInt (imm : BitVec 12) : immI imm = BitVec.ofInt 32 imm.toInt := rfl

theorem toInt_immI (imm : BitVec 12) : (immI imm).toInt = imm.toInt := BitVec.toInt_signExtend_of_le (by decide)

theorem toNat_immI (imm : BitVec 12) : ((immI imm).toNat : Int) = imm.toInt % 2 ^ 32 := by
  rw [immI_eq_ofInt, BitVec.toNat_ofInt, Int.toNat_of_nonneg (Int.emod_nonneg _ (by decide)), Nat.cast_pow,
    Nat.cast_ofNat]

theorem add_immI_eq_ofInt (a : Word) (imm : BitVec 12) : a + immI imm = BitVec.ofInt 32 (a.toNat + imm.toInt) := by
  rw [BitVec.ofInt_add, ofInt_toNat, immI_eq_ofInt]

theorem toNat_immU (imm : BitVec 20) : (immU imm).toNat = imm.toNat * 4096 := by
  rw [immU, toNat_append_eq_add, BitVec.toNat_zero]
  omega

theorem immU_eq_ofNat (imm : BitVec 20) : immU imm = BitVec.ofNat 32 (imm.toNat * 4096) := by
  rw [← toNat_immU, BitVec.ofNat_toNat, BitVec.setWidth_eq]

theorem add_immU_eq_ofNat (a : Word) (imm : BitVec 20) :
    a + immU imm = BitVec.ofNat 32 (a.toNat + imm.toNat * 4096) := by
  rw [BitVec.add_def, toNat_immU]

/-! ### Set-less-than (R184, R185) -/

theorem boolWord_decide (p : Prop) [Decidable p] : boolWord (decide p) = if p then 1#32 else 0#32 := by
  simp [boolWord]

theorem boolWord_ltS (a b : Word) : boolWord (ltS a b) = if a.toInt < b.toInt then 1#32 else 0#32 :=
  boolWord_decide _

theorem boolWord_ltU (a b : Word) : boolWord (ltU a b) = if a.toNat < b.toNat then 1#32 else 0#32 :=
  boolWord_decide _

theorem boolWord_ltS_immI (a : Word) (imm : BitVec 12) :
    boolWord (ltS a (immI imm)) = if a.toInt < imm.toInt then 1#32 else 0#32 := by
  rw [boolWord_ltS, toInt_immI]

theorem boolWord_ltU_immI (a : Word) (imm : BitVec 12) :
    boolWord (ltU a (immI imm)) = if (a.toNat : Int) < imm.toInt % 2 ^ 32 then 1#32 else 0#32 := by
  simp only [boolWord_ltU, ← toNat_immI, Int.ofNat_lt]

/-! ### The statements -/

/-- What every statement about a computation says of its instruction: its encoding decodes to it, and it writes one
register (R180). What is left of each instruction is the value. -/
theorem decodes_and_writes {s : State} {i : Instr} {n : Word} {rd : Reg} {v w : Word} (hwf : i.wellFormed = true)
    (hexec : exec i s = s.writeBack i n rd v) (hregs : ∀ r ∈ usedRegs i, RegExists s r) (hv : v = w) :
    decode (encode i) = .ok i ∧ ∃ t, exec i s = .next t ∧ RegEffect rd w (s.pc + n) s t := by
  rw [hexec, ← hv]
  exact ⟨decode_encode hwf, State.writeBack_effect hregs n rd v⟩

/-- Settles O14: row by row, the value written is the sum, the difference modulo 2^32 or the bitwise result. -/
theorem addSubLogic : Obligations.AddSubLogic := by
  intro s rd rs1 rs2 hrd hrs1 hrs2
  have hregs : ∀ r ∈ [rd, rs1, rs2], RegExists s r := by simp [hrd, hrs1, hrs2]
  refine ⟨?add, ?sub, ?xor, ?or, ?and⟩
  case add => exact decodes_and_writes (i := .add rd rs1 rs2) rfl rfl hregs (BitVec.add_def _ _)
  case sub => exact decodes_and_writes (i := .sub rd rs1 rs2) rfl rfl hregs (sub_eq_ofInt _ _)
  case xor => exact decodes_and_writes (i := .xor rd rs1 rs2) rfl rfl hregs rfl
  case or => exact decodes_and_writes (i := .or rd rs1 rs2) rfl rfl hregs rfl
  case and => exact decodes_and_writes (i := .and rd rs1 rs2) rfl rfl hregs rfl

/-- Settles O15: row by row, the value written, with the register's shift amount modulo 32. -/
theorem registerShiftsCompares : Obligations.RegisterShiftsCompares := by
  intro s rd rs1 rs2 hrd hrs1 hrs2
  have hregs : ∀ r ∈ [rd, rs1, rs2], RegExists s r := by simp [hrd, hrs1, hrs2]
  rw [← shamtOf_eq_mod]
  refine ⟨?sll, ?srl, ?sra, ?slt, ?sltu⟩
  case sll => exact decodes_and_writes (i := .sll rd rs1 rs2) rfl rfl hregs (shiftLeft_eq_ofNat _ _)
  case srl => exact decodes_and_writes (i := .srl rd rs1 rs2) rfl rfl hregs (ushiftRight_eq_ofNat _ _)
  case sra => exact decodes_and_writes (i := .sra rd rs1 rs2) rfl rfl hregs (sshiftRight_eq_ofInt _ _)
  case slt => exact decodes_and_writes (i := .slt rd rs1 rs2) rfl rfl hregs (boolWord_ltS _ _)
  case sltu => exact decodes_and_writes (i := .sltu rd rs1 rs2) rfl rfl hregs (boolWord_ltU _ _)

/-- Settles O16: row by row; the immediate counts as a signed number. -/
theorem immediateArithmetic : Obligations.ImmediateArithmetic := by
  intro s rd rs1 imm hrd hrs1
  have hregs : ∀ r ∈ [rd, rs1], RegExists s r := by simp [hrd, hrs1]
  rw [← immI_eq_ofInt]
  refine ⟨?addi, ?xori, ?ori, ?andi⟩
  case addi => exact decodes_and_writes (i := .addi rd rs1 imm) rfl rfl hregs (add_immI_eq_ofInt _ _)
  case xori => exact decodes_and_writes (i := .xori rd rs1 imm) rfl rfl hregs rfl
  case ori => exact decodes_and_writes (i := .ori rd rs1 imm) rfl rfl hregs rfl
  case andi => exact decodes_and_writes (i := .andi rd rs1 imm) rfl rfl hregs rfl

/-- Settles O17: row by row; both compares sign-extend the immediate first. -/
theorem immediateShiftsCompares : Obligations.ImmediateShiftsCompares := by
  intro s rd rs1 imm shamt hrd hrs1
  have hregs : ∀ r ∈ [rd, rs1], RegExists s r := by simp [hrd, hrs1]
  refine ⟨?slti, ?sltiu, ?slli, ?srli, ?srai⟩
  case slti => exact decodes_and_writes (i := .slti rd rs1 imm) rfl rfl hregs (boolWord_ltS_immI _ _)
  case sltiu => exact decodes_and_writes (i := .sltiu rd rs1 imm) rfl rfl hregs (boolWord_ltU_immI _ _)
  case slli => exact decodes_and_writes (i := .slli rd rs1 shamt) rfl rfl hregs (shiftLeft_eq_ofNat _ _)
  case srli => exact decodes_and_writes (i := .srli rd rs1 shamt) rfl rfl hregs (ushiftRight_eq_ofNat _ _)
  case srai => exact decodes_and_writes (i := .srai rd rs1 shamt) rfl rfl hregs (sshiftRight_eq_ofInt _ _)

/-- Settles O18: both rows write a multiple of 4096, AUIPC's counted from its own address. -/
theorem upperImmediates : Obligations.UpperImmediates := by
  intro s rd imm hrd
  have hregs : ∀ r ∈ [rd], RegExists s r := by simp [hrd]
  refine ⟨?lui, ?auipc⟩
  case lui => exact decodes_and_writes (i := .lui rd imm) rfl rfl hregs (immU_eq_ofNat _)
  case auipc => exact decodes_and_writes (i := .auipc rd imm) rfl rfl hregs (add_immU_eq_ofNat _ _)

end Sys2Proof.Machine

/-! RV32I control transfer (41_rv32i_control R210..R219): where each of its instructions goes, as arithmetic on numbers,
and the statements about them (O24, O25). -/

namespace Sys2Proof

/-! ### Offsets count two bytes (30_encoding R144) -/

/-- A zero bit below a signed number doubles it. -/
theorem toInt_append_zero {n : Nat} (imm : BitVec n) : (imm ++ 0#1).toInt = 2 * imm.toInt := by
  have hnat : (imm ++ 0#1).toNat = 2 * imm.toNat := by
    rw [Machine.toNat_append_eq_add, BitVec.toNat_zero, pow_one, add_zero]
  simp only [BitVec.toInt_eq_toNat_cond, hnat, Nat.pow_succ]
  split_ifs <;> push_cast <;> omega

theorem signExtend_append_zero {n m : Nat} (imm : BitVec n) :
    (imm ++ 0#1).signExtend m = BitVec.ofInt m (2 * imm.toInt) := by
  rw [BitVec.signExtend, toInt_append_zero]

/-- A target relative to `a` (R212, R214). -/
theorem add_offset_eq_ofInt {w n : Nat} (a : BitVec w) (imm : BitVec n) :
    a + (imm ++ 0#1).signExtend w = BitVec.ofInt w (a.toNat + 2 * imm.toInt) := by
  rw [BitVec.ofInt_add, ofInt_toNat, signExtend_append_zero]

end Sys2Proof

namespace Sys2Proof.Machine

open Sys2Proof

/-! ### Bit 0 cleared (R213) -/

theorem evenAddr_eq_append (a : Word) : evenAddr a = a.extractLsb' 1 31 ++ 0#1 := by
  refine BitVec.eq_of_getLsbD_eq fun i hi => ?_
  simp only [evenAddr, BitVec.getLsbD_and, BitVec.getLsbD_append, BitVec.getLsbD_extractLsb']
  interval_cases i <;> simp

theorem toNat_evenAddr (a : Word) : (evenAddr a).toNat = 2 * (a.toNat / 2) := by
  rw [evenAddr_eq_append, toNat_append_eq_add, BitVec.extractLsb'_toNat, Nat.shiftRight_eq_div_pow, BitVec.toNat_zero]
  omega

/-- The even part may be taken before the sum wraps. -/
theorem evenAddr_ofInt (x : Int) : evenAddr (BitVec.ofInt 32 x) = BitVec.ofInt 32 (2 * (x / 2)) := by
  apply BitVec.eq_of_toNat_eq
  rw [toNat_evenAddr, BitVec.toNat_ofInt, BitVec.toNat_ofInt]
  omega

/-! ### The conditions of the branches (R214..R219) -/

theorem condEq_iff (a b : Word) : condEq a b = true ↔ a = b := decide_eq_true_iff

theorem not_condEq_iff (a b : Word) : (!condEq a b) = true ↔ a ≠ b := by
  rw [Bool.not_eq_true', ← Bool.not_eq_true, condEq_iff]

theorem ltS_iff (a b : Word) : ltS a b = true ↔ a.toInt < b.toInt := decide_eq_true_iff

theorem not_ltS_iff (a b : Word) : (!ltS a b) = true ↔ b.toInt ≤ a.toInt := by
  rw [Bool.not_eq_true', ← Bool.not_eq_true, ltS_iff, Int.not_lt]

theorem ltU_iff (a b : Word) : ltU a b = true ↔ a.toNat < b.toNat := decide_eq_true_iff

theorem not_ltU_iff (a b : Word) : (!ltU a b) = true ↔ b.toNat ≤ a.toNat := by
  rw [Bool.not_eq_true', ← Bool.not_eq_true, ltU_iff, Nat.not_lt]

/-! ### The statements -/

/-- What every statement about a jump says of its instruction: its encoding decodes to it, and it links and goes to its
target. What is left of each instruction is the target. -/
theorem decodes_and_jumps {s : State} {i : Instr} {n : Word} {rd : Reg} {target w : Word} (hwf : i.wellFormed = true)
    (hexec : exec i s = s.jump i n rd target) (hregs : ∀ r ∈ usedRegs i, RegExists s r) (htarget : target = w) :
    decode (encode i) = .ok i ∧ ∃ t, exec i s = .next t ∧ RegEffect rd (s.pc + n) w s t := by
  rw [hexec, ← htarget]
  exact ⟨decode_encode hwf, State.jump_effect hregs n rd target⟩

/-- What every statement about a branch says of its instruction. What is left of each is its condition. -/
theorem decodes_and_branches {s : State} {i : Instr} {n : Word} {c : Bool} {m : Nat} {imm : BitVec m} {p : Prop}
    [Decidable p] (hwf : i.wellFormed = true) (hexec : exec i s = s.branch i n c ((imm ++ 0#1).signExtend 32))
    (hregs : ∀ r ∈ usedRegs i, RegExists s r) (hcond : c = true ↔ p) :
    decode (encode i) = .ok i ∧ ∃ t, exec i s = .next t
      ∧ PcEffect (if p then BitVec.ofInt 32 (s.pc.toNat + 2 * imm.toInt) else s.pc + n) s t := by
  rw [hexec, ← add_offset_eq_ofInt, ← if_congr hcond rfl rfl]
  exact ⟨decode_encode hwf, State.branch_effect hregs n c _⟩

/-- Settles O24: both jump and link; the targets are the sum with twice the immediate, and the even part of a sum. -/
theorem jumps : Obligations.Jumps := by
  intro s rd rs1 hrd hrs1
  refine ⟨fun imm => ?jal, fun imm => ?jalr⟩
  case jal =>
    have hregs : ∀ r ∈ [rd], RegExists s r := by simp [hrd]
    exact decodes_and_jumps (i := .jal rd imm) rfl rfl hregs (add_offset_eq_ofInt _ _)
  case jalr =>
    have hregs : ∀ r ∈ [rd, rs1], RegExists s r := by simp [hrd, hrs1]
    have htarget : evenAddr (s.reg rs1 + immI imm)
        = BitVec.ofInt 32 (2 * (((s.reg rs1).toNat + imm.toInt) / 2)) := by
      rw [add_immI_eq_ofInt, evenAddr_ofInt]
    exact decodes_and_jumps (i := .jalr rd rs1 imm) rfl rfl hregs htarget

/-- Settles O25: row by row, when the branch is taken. -/
theorem branches : Obligations.Branches := by
  intro s rs1 rs2 imm hrs1 hrs2
  have hregs : ∀ r ∈ [rs1, rs2], RegExists s r := by simp [hrs1, hrs2]
  refine ⟨?beq, ?bne, ?blt, ?bge, ?bltu, ?bgeu⟩
  case beq => exact decodes_and_branches (i := .beq rs1 rs2 imm) rfl rfl hregs (condEq_iff _ _)
  case bne => exact decodes_and_branches (i := .bne rs1 rs2 imm) rfl rfl hregs (not_condEq_iff _ _)
  case blt => exact decodes_and_branches (i := .blt rs1 rs2 imm) rfl rfl hregs (ltS_iff _ _)
  case bge => exact decodes_and_branches (i := .bge rs1 rs2 imm) rfl rfl hregs (not_ltS_iff _ _)
  case bltu => exact decodes_and_branches (i := .bltu rs1 rs2 imm) rfl rfl hregs (ltU_iff _ _)
  case bgeu => exact decodes_and_branches (i := .bgeu rs1 rs2 imm) rfl rfl hregs (not_ltU_iff _ _)

end Sys2Proof.Machine

/-! RV32I loads, stores and FENCE (42_rv32i_loadstore_fence R230..R240): accesses to plain memory by their forms, the
load that faults, and the statements about them (O27, O29, O32, O36). -/

namespace Sys2Proof.Machine

open Sys2Proof

/-! ### Accesses to plain memory (20_memory R107, R110, R111) -/

/-- A load from plain memory, 32 or 16 bits long, has its form's result as its whole effect. -/
theorem exec_load_effect {s : State} {i : Instr} {f : LoadForm} (hf : loadForm s i = some f) (hregs : RegsExist s i)
    (hread : Readable s f.ea f.width.bytes) :
    ∃ t, exec i s = .next t ∧ RegEffect f.rd (f.result (s.bytesValue f.ea f.width.bytes)) (s.pc + f.ilen) s t := by
  obtain ⟨ext, hext, hexec⟩ := exec_of_loadForm hf
  rw [hexec, ← hext]
  exact State.load_effect hregs f.ilen f.rd hread ext

/-- A store to plain memory, 32 or 16 bits long, has the write of its form's value as its whole effect. -/
theorem exec_store_effect {s : State} {i : Instr} {f : StoreForm} (hf : storeForm s i = some f)
    (hregs : RegsExist s i) (hm : Memory.wf s.mem = true) (hwrite : Writable s f.ea f.width.bytes) :
    ∃ t, exec i s = .next t ∧ StoreEffect f.ea f.width.bytes f.value (s.pc + f.ilen) s t := by
  rw [exec_of_storeForm hf]
  exact State.store_effect hregs hm f.ilen hwrite

/-! ### The statements -/

/-- Settles O27: row by row, the encoding, and the load of the row's form. -/
theorem loads : Obligations.Loads := by
  intro s rd rs1 imm hrd hrs1
  have hregs : ∀ r ∈ [rd, rs1], RegExists s r := by simp [hrd, hrs1]
  rw [State.effAddr_eq_baseAddr]
  refine ⟨rfl, decode_encode (i := .lb rd rs1 imm) rfl, ?lb, decode_encode (i := .lh rd rs1 imm) rfl, ?lh,
    decode_encode (i := .lw rd rs1 imm) rfl, ?lw, decode_encode (i := .lbu rd rs1 imm) rfl, ?lbu,
    decode_encode (i := .lhu rd rs1 imm) rfl, ?lhu⟩
  case lb => exact exec_load_effect (i := .lb rd rs1 imm) rfl hregs
  case lh => exact exec_load_effect (i := .lh rd rs1 imm) rfl hregs
  case lw => exact exec_load_effect (i := .lw rd rs1 imm) rfl hregs
  case lbu => exact exec_load_effect (i := .lbu rd rs1 imm) rfl hregs
  case lhu => exact exec_load_effect (i := .lhu rd rs1 imm) rfl hregs

/-- Settles O29: row by row, the encoding, and the store of the row's form. -/
theorem stores : Obligations.Stores := by
  intro s rs1 rs2 imm hrs1 hrs2 hm
  have hregs : ∀ r ∈ [rs1, rs2], RegExists s r := by simp [hrs1, hrs2]
  rw [State.effAddr_eq_baseAddr]
  refine ⟨rfl, decode_encode (i := .sb rs1 rs2 imm) rfl, ?sb, decode_encode (i := .sh rs1 rs2 imm) rfl, ?sh,
    decode_encode (i := .sw rs1 rs2 imm) rfl, ?sw⟩
  case sb => exact exec_store_effect (i := .sb rs1 rs2 imm) rfl hregs hm
  case sh => exact exec_store_effect (i := .sh rs1 rs2 imm) rfl hregs hm
  case sw => exact exec_store_effect (i := .sw rs1 rs2 imm) rfl hregs hm

/-- Settles O32: every load is the shared operation on its form, which faults at the first part that cannot be read. -/
theorem loadFaults : Obligations.LoadFaults := by
  intro s i f pre post p hx hregs hf hsplit hpre hp
  obtain ⟨ext, -, hexec⟩ := exec_of_loadForm hf
  rw [hexec]
  exact State.load_fault hregs hx f.ilen f.rd ext hsplit hpre hp

/-- An instruction that is `State.advance`: its encoding decodes to it, and it moves pc past itself and does no more. -/
theorem decodes_and_advances {s : State} {i : Instr} {n : Word} (hwf : i.wellFormed = true)
    (hexec : exec i s = s.advance i n) (hregs : RegsExist s i) :
    decode (encode i) = .ok i ∧ ∃ t, exec i s = .next t ∧ PcEffect (s.pc + n) s t := by
  rw [hexec]
  exact ⟨decode_encode hwf, State.advance_effect hregs n⟩

/-- Settles O36: both only move on; neither uses a register that an RV32E instance could lack. -/
theorem fences : Obligations.Fences := by
  have hregs : ∀ s : State, ∀ r ∈ ([] : List Reg), RegExists s r := fun _ _ => List.not_mem_nil.elim
  refine fun s => ⟨fun fm pred succ rs1 rd => ?fence, fun imm => ?cNop⟩
  case fence => exact decodes_and_advances (i := .fence fm pred succ rs1 rd) rfl rfl (hregs s)
  case cNop => exact decodes_and_advances (i := .cNop imm) rfl rfl (hregs s)

end Sys2Proof.Machine

/-! RV32I environment call and breakpoint (43_rv32i_system R251, R252, 46_c_compressed R304): when EBREAK enters Debug
mode, what it leaves there, and the statements about both instructions (O39, O40). -/

namespace Sys2Proof.Machine

open Sys2Proof

/-! ### EBREAK and C.EBREAK (R252, R304) -/

/-- Entry to Debug mode leaves the record of the step open: whatever it holds, the entry is the same. -/
theorem DebugEntry.with_log {c : Nat} {r : Word} {s t : State} (h : DebugEntry c r s t) (l : StepLog) :
    DebugEntry c r s { t with log := l } :=
  { h with frame := congrArg (fun u : State => { u with log := l }) h.frame }

/-- Outside Debug mode EBREAK enters it exactly when the `dcsr` bit of the mode the hart runs in is set. -/
theorem State.ebreakEntersDebug_iff {s : State} (h : s.debugMode = false) : s.ebreakEntersDebug = true ↔
    (s.priv = .M ∧ s.dcsr.ebreakm = true) ∨ (s.priv = .U ∧ s.dcsr.ebreaku = true) := by
  cases hp : s.priv <;> simp [State.ebreakEntersDebug, h, hp]

theorem State.breakpoint_debugEntry {s : State} (h : s.ebreakEntersDebug = true) :
    ∃ t, s.breakpoint = .next t ∧ DebugEntry 1 s.pc s t :=
  ⟨_, if_pos h, (State.enterDebug_effect s .ebreak s.pc).with_log StepLog.empty⟩

theorem State.breakpoint_trapEffect {s : State} (hx : TakesExceptions s) (h : ¬s.ebreakEntersDebug = true) :
    ∃ t, s.breakpoint = .next t ∧ TrapEffect false 3 0#32 s.pc s t := by
  rw [State.breakpoint, if_neg h]
  exact State.raise_effect hx .breakpoint 0#32

/-- Both forms are `State.breakpoint`. -/
theorem exec_eq_breakpoint {i : Instr} (h : i ∈ [Instr.ebreak, .cEbreak]) (s : State) : exec i s = s.breakpoint := by
  rcases List.mem_pair.mp h with rfl | rfl
  case inl => rfl
  case inr => rfl

/-! ### The statements -/

/-- Settles O39: the mode chooses which of the two exceptions ECALL raises. -/
theorem ecallTraps : Obligations.EcallTraps := by
  intro s hx
  refine ⟨decode_encode (i := .ecall) rfl, ?_⟩
  change ∃ t, execEcall s = .next t ∧ _
  unfold execEcall
  split
  case isTrue => exact State.raise_effect hx .ecallFromU 0#32
  case isFalse => exact State.raise_effect hx .ecallFromM 0#32

/-- Settles O40: both forms are one breakpoint, and the `dcsr` bit of the mode decides where it goes. -/
theorem ebreakTraps : Obligations.EbreakTraps := by
  intro s hx
  refine ⟨decode_encode (i := .ebreak) rfl, decode_encode (i := .cEbreak) rfl, fun i hi => ?_⟩
  rw [exec_eq_breakpoint hi, ← State.ebreakEntersDebug_iff hx.1]
  exact ⟨State.breakpoint_debugEntry, State.breakpoint_trapEffect hx⟩

end Sys2Proof.Machine

/-! RV32E (44_rv32e R261): every instruction that names a register checks that it exists before it does anything, and
the statement about the registers that are missing (O58). -/

namespace Sys2Proof.Machine

open Sys2Proof

/-- Each shape of meaning that takes a register field (`writeBack`, `advance`, `jump`, `branch`, `load`, `store`,
`csrAccess`) is the register check, made in the state the instruction starts from, with the rest of the meaning as its
continuation. The meanings of another shape, and FENCE.I, which changes the state before the check, use no register. -/
theorem exec_eq_checked (s : State) {i : Instr} (h : usedRegs i ≠ []) : ∃ k, exec i s = s.checked i k := by
  cases i with
  | fenceI | ecall | ebreak | cEbreak | mret | wfi | dret => exact absurd rfl h
  | _ => exact ⟨_, rfl⟩

/-- One missing register is enough for the check to fail. -/
theorem regsExist_eq_false {s : State} {i : Instr} {r : Reg} (hr : r ∈ usedRegs i) (hmissing : ¬RegExists s r) :
    regsExist s.cfg.rv32e i = false :=
  Bool.eq_false_iff.2 fun hall => hmissing (regsExist_iff.1 hall r hr)

/-- Settles O58: the check comes first and fails, and what it raises is taken. -/
theorem missingRegisterTraps : Obligations.MissingRegisterTraps := by
  intro s i r hx hr hmissing
  obtain ⟨k, hexec⟩ := exec_eq_checked s (List.ne_nil_of_mem hr)
  rw [hexec, State.checked_missing (regsExist_eq_false hr hmissing) k]
  exact State.raise_effect hx .illegalInstruction (encode i).toWord

end Sys2Proof.Machine

/-! The M extension (45_m_muldiv R265..R274): what its instructions write, as arithmetic on numbers, and the statements
about it (O19..O21). -/

namespace Sys2Proof

/-! ### The operations on words as arithmetic on numbers (00_scope R9) -/

theorem mul_eq_ofNat {w : Nat} (a b : BitVec w) : a * b = BitVec.ofNat w (a.toNat * b.toNat) := by
  rw [BitVec.ofNat_mul, BitVec.ofNat_toNat, BitVec.ofNat_toNat, BitVec.setWidth_eq, BitVec.setWidth_eq]

/-- Bits 63:32 of a 64-bit number are a quotient rounded toward minus infinity, whatever its sign. -/
theorem extractLsb'_high_ofInt (z : Int) :
    (BitVec.ofInt 64 z).extractLsb' 32 32 = BitVec.ofInt 32 (z / 2 ^ 32) := by
  apply BitVec.eq_of_toNat_eq
  rw [BitVec.extractLsb'_toNat, Nat.shiftRight_eq_div_pow, BitVec.toNat_ofInt, BitVec.toNat_ofInt]
  omega

theorem sdiv_eq_ofInt {w : Nat} (a b : BitVec w) : a.sdiv b = BitVec.ofInt w (a.toInt.tdiv b.toInt) := by
  apply BitVec.eq_of_toInt_eq
  rw [BitVec.toInt_sdiv, BitVec.toInt_ofInt]

theorem srem_eq_ofInt {w : Nat} (a b : BitVec w) :
    a.srem b = BitVec.ofInt w (a.toInt - b.toInt * a.toInt.tdiv b.toInt) := by
  rw [← Int.tmod_def, ← BitVec.toInt_srem, BitVec.ofInt_toInt]

/-- A remainder that is not zero has the dividend's sign, as the quotient is rounded toward zero. -/
theorem tmod_neg_iff {a b : Int} (h : a.tmod b ≠ 0) : a.tmod b < 0 ↔ a < 0 := by
  have hdvd : ¬b ∣ a := fun hd => h (Int.tmod_eq_zero_of_dvd hd)
  rw [← Int.sign_eq_neg_one_iff_neg, Int.sign_tmod, if_neg hdvd, Int.sign_eq_neg_one_iff_neg]

end Sys2Proof

namespace Sys2Proof.Machine

open Sys2Proof

/-! ### The high word of a product (R267..R269) -/

/-- The product of two 64-bit readings keeps bits 63:32 of the exact one, however the operands were extended. -/
theorem mulHigh_ofInt (x y : Int) :
    mulHigh (BitVec.ofInt 64 x) (BitVec.ofInt 64 y) = BitVec.ofInt 32 (x * y / 2 ^ 32) := by
  rw [mulHigh, ← BitVec.ofInt_mul, extractLsb'_high_ofInt]

theorem setWidth_eq_ofInt (a : Word) : a.setWidth 64 = BitVec.ofInt 64 a.toNat := by
  rw [BitVec.ofInt_natCast, BitVec.ofNat_toNat]

theorem mulHigh_signed (a b : Word) :
    mulHigh (a.signExtend 64) (b.signExtend 64) = BitVec.ofInt 32 (a.toInt * b.toInt / 2 ^ 32) :=
  mulHigh_ofInt _ _

theorem mulHigh_signed_unsigned (a b : Word) :
    mulHigh (a.signExtend 64) (b.setWidth 64) = BitVec.ofInt 32 (a.toInt * b.toNat / 2 ^ 32) := by
  rw [setWidth_eq_ofInt]
  exact mulHigh_ofInt _ _

theorem mulHigh_unsigned (a b : Word) :
    mulHigh (a.setWidth 64) (b.setWidth 64) = BitVec.ofNat 32 (a.toNat * b.toNat / 2 ^ 32) := by
  rw [setWidth_eq_ofInt, setWidth_eq_ofInt, mulHigh_ofInt, ← BitVec.ofInt_natCast]
  push_cast
  rfl

/-! ### Quotients and remainders (R270..R273) -/

theorem divS_eq (a b : Word) :
    divS a b = if b = 0#32 then 0xFFFFFFFF#32
      else if a = 0x80000000#32 ∧ b = 0xFFFFFFFF#32 then 0x80000000#32
      else BitVec.ofInt 32 (a.toInt.tdiv b.toInt) := by
  rw [divS, sdiv_eq_ofInt]

theorem divU_eq (a b : Word) :
    divU a b = if b = 0#32 then 0xFFFFFFFF#32 else BitVec.ofNat 32 (a.toNat / b.toNat) := by
  rw [divU, BitVec.udiv_eq, BitVec.udiv_def]

theorem remS_eq (a b : Word) :
    remS a b = if b = 0#32 then a
      else if a = 0x80000000#32 ∧ b = 0xFFFFFFFF#32 then 0#32
      else BitVec.ofInt 32 (a.toInt - b.toInt * a.toInt.tdiv b.toInt) := by
  rw [remS, srem_eq_ofInt]

theorem remU_eq (a b : Word) : remU a b = if b = 0#32 then a else BitVec.ofNat 32 (a.toNat % b.toNat) := by
  rw [remU, BitVec.umod_eq, BitVec.umod_def]

/-! Away from R270..R273's exceptions the written word reads back as the exact quotient or remainder. -/

section Exact
variable {a b : Word}

theorem toInt_divS (hb : b ≠ 0#32) (hov : ¬(a = 0x80000000#32 ∧ b = 0xFFFFFFFF#32)) :
    (divS a b).toInt = a.toInt.tdiv b.toInt := by
  rw [divS, if_neg hb, if_neg hov]
  exact BitVec.toInt_sdiv_of_ne_or_ne a b (not_and_or.1 hov)

theorem toInt_remS (hb : b ≠ 0#32) (hov : ¬(a = 0x80000000#32 ∧ b = 0xFFFFFFFF#32)) :
    (remS a b).toInt = a.toInt.tmod b.toInt := by
  rw [remS, if_neg hb, if_neg hov, BitVec.toInt_srem]

theorem toNat_divU (hb : b ≠ 0#32) : (divU a b).toNat = a.toNat / b.toNat := by
  rw [divU, if_neg hb, BitVec.udiv_eq, BitVec.toNat_udiv]

theorem toNat_remU (hb : b ≠ 0#32) : (remU a b).toNat = a.toNat % b.toNat := by
  rw [remU, if_neg hb, BitVec.umod_eq, BitVec.toNat_umod]

end Exact

/-! ### The statements -/

/-- Settles O19: row by row, the low word of the product, or the high word of the exact one for each reading of the
operands. -/
theorem multiply : Obligations.Multiply := by
  intro s rd rs1 rs2 hrd hrs1 hrs2
  have hregs : ∀ r ∈ [rd, rs1, rs2], RegExists s r := by simp [hrd, hrs1, hrs2]
  refine ⟨?mul, ?mulh, ?mulhsu, ?mulhu⟩
  case mul => exact decodes_and_writes (i := .mul rd rs1 rs2) rfl rfl hregs (mul_eq_ofNat _ _)
  case mulh => exact decodes_and_writes (i := .mulh rd rs1 rs2) rfl rfl hregs (mulHigh_signed _ _)
  case mulhsu => exact decodes_and_writes (i := .mulhsu rd rs1 rs2) rfl rfl hregs (mulHigh_signed_unsigned _ _)
  case mulhu => exact decodes_and_writes (i := .mulhu rd rs1 rs2) rfl rfl hregs (mulHigh_unsigned _ _)

/-- Settles O20: row by row; the exceptions are cases of the value that is written, so no operand makes it trap. -/
theorem divide : Obligations.Divide := by
  intro s rd rs1 rs2 hrd hrs1 hrs2
  have hregs : ∀ r ∈ [rd, rs1, rs2], RegExists s r := by simp [hrd, hrs1, hrs2]
  refine ⟨?div, ?divu, ?rem, ?remu⟩
  case div => exact decodes_and_writes (i := .div rd rs1 rs2) rfl rfl hregs (divS_eq _ _)
  case divu => exact decodes_and_writes (i := .divu rd rs1 rs2) rfl rfl hregs (divU_eq _ _)
  case rem => exact decodes_and_writes (i := .rem rd rs1 rs2) rfl rfl hregs (remS_eq _ _)
  case remu => exact decodes_and_writes (i := .remu rd rs1 rs2) rfl rfl hregs (remU_eq _ _)

/-- R274 for DIV and REM: both come from the division that rounds toward zero. -/
theorem divS_remS_law {a b : Word} (hb : b ≠ 0#32) (hov : ¬(a = 0x80000000#32 ∧ b = 0xFFFFFFFF#32)) :
    a.toInt = b.toInt * (divS a b).toInt + (remS a b).toInt
      ∧ (remS a b).toInt.natAbs < b.toInt.natAbs
      ∧ ((remS a b).toInt ≠ 0 → ((remS a b).toInt < 0 ↔ a.toInt < 0)) := by
  have hpos : 0 < b.toInt.natAbs := Int.natAbs_pos.2 fun h => hb (BitVec.eq_of_toInt_eq h)
  rw [toInt_divS hb hov, toInt_remS hb hov]
  refine ⟨(Int.mul_tdiv_add_tmod _ _).symm, ?bound, tmod_neg_iff⟩
  case bound =>
    rw [Int.natAbs_tmod]
    exact Nat.mod_lt _ hpos

/-- R274 for DIVU and REMU. -/
theorem divU_remU_law {a b : Word} (hb : b ≠ 0#32) :
    a.toNat = b.toNat * (divU a b).toNat + (remU a b).toNat ∧ (remU a b).toNat < b.toNat := by
  have hpos : 0 < b.toNat := Nat.pos_of_ne_zero fun h => hb (BitVec.eq_of_toNat_eq h)
  rw [toNat_divU hb, toNat_remU hb]
  exact ⟨(Nat.div_add_mod _ _).symm, Nat.mod_lt _ hpos⟩

/-- Settles O21: the signed pair and the unsigned pair. -/
theorem divisionLaw : Obligations.DivisionLaw := fun _ _ hb => ⟨divS_remS_law hb, divU_remU_law hb⟩

end Sys2Proof.Machine

/-! The compressed instructions (46_c_compressed R280..R307): the values of their operands as arithmetic on numbers, and
the statements about them (O22, O23, O26, O28, O30). -/

namespace Sys2Proof

/-- Zero bits below a signed number scale it (30_encoding R161). -/
theorem toInt_append_zeros {n : Nat} (imm : BitVec n) (k : Nat) : (imm ++ 0#k).toInt = 2 ^ k * imm.toInt := by
  have hnat : (imm ++ 0#k).toNat = 2 ^ k * imm.toNat := by
    rw [Machine.toNat_append_eq_add, BitVec.toNat_zero, add_zero]
  have hsign : 2 * (2 ^ k * imm.toNat) < 2 ^ (n + k) ↔ 2 * imm.toNat < 2 ^ n := by
    rw [Nat.pow_add, Nat.mul_comm (2 ^ n), Nat.mul_left_comm, Nat.mul_lt_mul_left (Nat.two_pow_pos k)]
  simp only [BitVec.toInt_eq_toNat_cond, hnat, hsign]
  split_ifs
  · push_cast; rfl
  · push_cast; ring

theorem signExtend_append_zeros {n : Nat} (imm : BitVec n) (k m : Nat) :
    (imm ++ 0#k).signExtend m = BitVec.ofInt m (2 ^ k * imm.toInt) := by
  rw [BitVec.signExtend, toInt_append_zeros]

/-- Adding a signed number to a word, modulo 2^w. -/
theorem add_ofInt {w : Nat} (a : BitVec w) (x : Int) : a + BitVec.ofInt w x = BitVec.ofInt w (a.toNat + x) := by
  rw [BitVec.ofInt_add, ofInt_toNat]

end Sys2Proof

namespace Sys2Proof.Machine

open Sys2Proof

/-! ### The operands (30_encoding R160, R161) -/

/-- A 3-bit field names x8..x15. -/
theorem toNat_creg (r : CReg) : (creg r).toNat = 8 + r.toNat := toNat_append_eq_add 1#2 r

theorem add_immC6_eq_ofInt (a : Word) (imm : BitVec 6) : a + immC6 imm = BitVec.ofInt 32 (a.toNat + imm.toInt) :=
  add_ofInt a imm.toInt

theorem immCLui_eq_ofInt (imm : BitVec 6) : immCLui imm = BitVec.ofInt 32 (4096 * imm.toInt) :=
  signExtend_append_zeros imm 12 32

theorem add_immC16sp_eq_ofInt (a : Word) (imm : BitVec 6) :
    a + immC16sp imm = BitVec.ofInt 32 (a.toNat + 16 * imm.toInt) := by
  rw [immC16sp, signExtend_append_zeros, add_ofInt]
  rfl

theorem evenAddr_eq_ofNat (a : Word) : evenAddr a = BitVec.ofNat 32 (2 * (a.toNat / 2)) := by
  rw [← toNat_evenAddr, BitVec.ofNat_toNat, BitVec.setWidth_eq]

/-! ### The registers that the rows name in five bits (44_rv32e R261) -/

section Registers
variable {s : State} {i : Instr} {r r' : Reg}

/-- x0..x2 and x8..x15 are on every instance, so a row with no five-bit field passes the check. -/
theorem RegsExist.of_none (h : usedRegs i = []) : RegsExist s i := by
  simp [RegsExist, h]

theorem RegsExist.of_one (h : usedRegs i = [r]) (hr : RegExists s r) : RegsExist s i := by
  simp [RegsExist, h, hr]

theorem RegsExist.of_two (h : usedRegs i = [r, r']) (hr : RegExists s r) (hr' : RegExists s r') : RegsExist s i := by
  simp [RegsExist, h, hr, hr']

end Registers

/-! ### Rows whose constraint the statement takes as a premise -/

/-- As `decodes_and_writes`, for a row with a constraint: an ill-formed term is executed too, but no parcel decodes to
it (assumption 34). -/
theorem decodes_if_and_writes {c : Prop} {s : State} {i : Instr} {n : Word} {rd : Reg} {v w : Word}
    (hwf : c → i.wellFormed = true) (hexec : exec i s = s.writeBack i n rd v) (hregs : RegsExist s i) (hv : v = w) :
    (c → decode (encode i) = .ok i) ∧ ∃ t, exec i s = .next t ∧ RegEffect rd w (s.pc + n) s t := by
  rw [hexec, ← hv]
  exact ⟨fun hc => decode_encode (hwf hc), State.writeBack_effect hregs n rd v⟩

/-! ### Jumps without a link (R297, R302) -/

/-- What is written to x0 is discarded, so that pc alone changes. -/
theorem PcEffect.of_setReg_zero (s : State) (v npc : Word) : PcEffect npc s ((s.setReg 0#5 v).retire npc) :=
  PcEffect.of_retire s npc

theorem State.jump_x0_effect {s : State} {i : Instr} (h : RegsExist s i) (n target : Word) :
    ∃ t, s.jump i n 0#5 target = .next t ∧ PcEffect target s t :=
  ⟨_, State.checked_ok (regsExist_iff.2 h) _, PcEffect.of_setReg_zero s _ target⟩

/-! ### The statements -/

/-- Settles O22: row by row, the immediate's value, scaled where the row scales it. -/
theorem compressedImmediates : Obligations.CompressedImmediates := by
  intro s
  refine ⟨fun rd imm => ?cAddi4spn, fun rd imm hrd => ?cAddi, fun rd imm hrd => ?cLi, fun imm => ?cAddi16sp,
    fun rd imm hrd => ?cLui, fun rd imm => ?cAndi⟩
  case cAddi4spn =>
    exact decodes_if_and_writes (i := .cAddi4spn rd imm) decide_eq_true rfl (RegsExist.of_none rfl)
      (s.reg_add_eq_wordAddr 2#5 imm)
  case cAddi =>
    exact decodes_if_and_writes (i := .cAddi rd imm) decide_eq_true rfl (RegsExist.of_one rfl hrd)
      (add_immC6_eq_ofInt _ _)
  case cLi => exact decodes_and_writes (i := .cLi rd imm) rfl rfl (RegsExist.of_one rfl hrd) rfl
  case cAddi16sp =>
    exact decodes_if_and_writes (i := .cAddi16sp imm) decide_eq_true rfl (RegsExist.of_none rfl)
      (add_immC16sp_eq_ofInt _ _)
  case cLui =>
    have hwf : rd ≠ 2#5 ∧ imm ≠ 0#6 → (Instr.cLui rd imm).wellFormed = true := by simp [Instr.wellFormed]
    exact decodes_if_and_writes (i := .cLui rd imm) hwf rfl (RegsExist.of_one rfl hrd) (immCLui_eq_ofInt _)
  case cAndi => exact decodes_and_writes (i := .cAndi rd imm) rfl rfl (RegsExist.of_none rfl) rfl

/-- Settles O23: row by row, the value written, from registers that three or five bits name. -/
theorem compressedRegisters : Obligations.CompressedRegisters := by
  intro s
  refine ⟨toNat_creg, fun rd rs2 => ?cSub, fun rd rs2 => ?cXor, fun rd rs2 => ?cOr, fun rd rs2 => ?cAnd,
    fun rd rs2 hrd hrs2 => ?cMv, fun rd rs2 hrd hrs2 => ?cAdd, fun rd shamt => ?cSrli, fun rd shamt => ?cSrai,
    fun rd shamt hrd => ?cSlli⟩
  case cSub => exact decodes_and_writes (i := .cSub rd rs2) rfl rfl (RegsExist.of_none rfl) (sub_eq_ofInt _ _)
  case cXor => exact decodes_and_writes (i := .cXor rd rs2) rfl rfl (RegsExist.of_none rfl) rfl
  case cOr => exact decodes_and_writes (i := .cOr rd rs2) rfl rfl (RegsExist.of_none rfl) rfl
  case cAnd => exact decodes_and_writes (i := .cAnd rd rs2) rfl rfl (RegsExist.of_none rfl) rfl
  case cMv =>
    exact decodes_if_and_writes (i := .cMv rd rs2) decide_eq_true rfl (RegsExist.of_two rfl hrd hrs2) rfl
  case cAdd =>
    exact decodes_if_and_writes (i := .cAdd rd rs2) decide_eq_true rfl (RegsExist.of_two rfl hrd hrs2)
      (BitVec.add_def _ _)
  case cSrli =>
    exact decodes_and_writes (i := .cSrli rd shamt) rfl rfl (RegsExist.of_none rfl) (ushiftRight_eq_ofNat _ _)
  case cSrai =>
    exact decodes_and_writes (i := .cSrai rd shamt) rfl rfl (RegsExist.of_none rfl) (sshiftRight_eq_ofInt _ _)
  case cSlli =>
    exact decodes_and_writes (i := .cSlli rd shamt) rfl rfl (RegsExist.of_one rfl hrd) (shiftLeft_eq_ofNat _ _)

/-- Settles O26: the jumps link to x1 or to x0, and the branches compare with zero. -/
theorem compressedControl : Obligations.CompressedControl := by
  intro s
  refine ⟨fun imm => ⟨decode_encode (i := .cJ imm) rfl, ?cJ⟩, fun imm => ?cJal,
    fun rs1 hrs1 => ⟨fun h => decode_encode (i := .cJr rs1) (decide_eq_true h), ?cJr⟩,
    fun rs1 hrs1 => ⟨fun h => decode_encode (i := .cJalr rs1) (decide_eq_true h), ?cJalr⟩,
    fun rs1 imm => ?cBeqz, fun rs1 imm => ?cBnez⟩
  case cJ =>
    rw [← add_offset_eq_ofInt]
    exact State.jump_x0_effect (i := .cJ imm) (RegsExist.of_none rfl) 2#32 (s.pc + immCJ imm)
  case cJal =>
    exact decodes_and_jumps (i := .cJal imm) rfl rfl (RegsExist.of_none rfl) (add_offset_eq_ofInt _ _)
  case cJr =>
    rw [← evenAddr_eq_ofNat]
    exact State.jump_x0_effect (i := .cJr rs1) (RegsExist.of_one rfl hrs1) 2#32 (s.regTarget rs1)
  case cJalr =>
    rw [← evenAddr_eq_ofNat]
    exact State.jump_effect (i := .cJalr rs1) (RegsExist.of_one rfl hrs1) 2#32 1#5 (s.regTarget rs1)
  case cBeqz =>
    exact decodes_and_branches (i := .cBeqz rs1 imm) rfl rfl (RegsExist.of_none rfl) (condEq_iff _ _)
  case cBnez =>
    exact decodes_and_branches (i := .cBnez rs1 imm) rfl rfl (RegsExist.of_none rfl) (not_condEq_iff _ _)

/-- Settles O28: the encoding, and the load of the row's form. -/
theorem compressedLoads : Obligations.CompressedLoads := by
  refine fun s => ⟨?cLw, ?cLwsp⟩
  case cLw =>
    rintro rd rs1 imm _ rfl
    exact ⟨decode_encode (i := .cLw rd rs1 imm) rfl,
      exec_load_effect (i := .cLw rd rs1 imm) rfl (RegsExist.of_none rfl)⟩
  case cLwsp =>
    rintro rd imm _ hrd rfl
    exact ⟨fun h => decode_encode (i := .cLwsp rd imm) (decide_eq_true h),
      exec_load_effect (i := .cLwsp rd imm) rfl (RegsExist.of_one rfl hrd)⟩

/-- Settles O30: the address as a number, the encoding, and the store of the row's form. -/
theorem compressedStores : Obligations.CompressedStores := by
  refine fun s hm => ⟨fun rs1 rs2 imm => ?cSw, fun rs2 imm hrs2 => ?cSwsp⟩
  case cSw =>
    have haddr : s.reg (creg rs1) + immCLw imm = s.wordAddr (creg rs1) imm.toNat := s.reg_add_eq_wordAddr _ imm
    rw [haddr]
    exact ⟨rfl, decode_encode (i := .cSw rs1 rs2 imm) rfl,
      exec_store_effect (i := .cSw rs1 rs2 imm) rfl (RegsExist.of_none rfl) hm⟩
  case cSwsp =>
    have haddr : s.reg 2#5 + immCSp imm = s.wordAddr 2#5 imm.toNat := s.reg_add_eq_wordAddr _ imm
    rw [haddr]
    exact ⟨rfl, decode_encode (i := .cSwsp rs2 imm) rfl,
      exec_store_effect (i := .cSwsp rs2 imm) rfl (RegsExist.of_one rfl hrs2) hm⟩

end Sys2Proof.Machine

/-! What an instruction can do in U-mode (60_exceptions R384), and what one that does not retire leaves (R360): the
statements over every instruction (O59, O60). -/

namespace Sys2Proof.Machine

open Sys2Proof

/-! ### The two ends of an instruction that does not retire (60_exceptions R365, R385) -/

/-- An instruction that does not retire traps over what its transfers have left, or enters Debug mode. -/
theorem Effect.trap_or_debug_of_not_retired {s t : State} (he : Effect s t) (h : t.log.retired = false) :
    (∃ u e v, OnlyBus s u ∧ t = u.trap false (Exc.code e) v s.pc)
      ∨ t = { s.enterDebug .ebreak s.pc with log := StepLog.empty } := by
  cases he with
  | trap e v => exact .inl ⟨s, e, v, rfl, rfl⟩
  | loadFault u e v hu =>
    refine .inl ⟨u, e, v, ?_, rfl⟩
    rw [hu]
    rfl
  | storeFault u e v hu => exact .inl ⟨u, e, v, hu.1, rfl⟩
  | ebreak => exact .inr rfl
  | write | move | load | store | csr | fenceI | mret | wfi | dret => cases h

/-! ### U-mode (10_state R26, R31, 60_exceptions R384) -/

/-- Nothing but what U-mode may change differs: registers, pc, what the bus reaches, sleep and the step's log. -/
def OnlyUser (s t : State) : Prop :=
  t = { s with regs := t.regs, pc := t.pc, mem := t.mem, stale := t.stale, msip := t.msip, mtimecmp := t.mtimecmp,
               mtime := t.mtime, device := t.device, wfiSleep := t.wfiSleep, log := t.log }

/-- R31: every CSR that U-mode may access is one that it may only read. -/
theorem csrAllowed_user_reads {s : State} {a : CsrAddr} {c : Csr} {writes : Bool} (hp : s.priv = .U)
    (hc : csrOf a = some c) (ha : CsrAllowed s a writes) : writes = false := by
  have htable : ∀ p ∈ csrTable, p.1 / 256 % 4 = 0 → p.1 / 1024 % 4 = 3 := by decide
  obtain ⟨hpriv, hwrites, -⟩ := ha
  have hlow : a.toNat / 256 % 4 = 0 := hpriv.resolve_left (by simp [hp])
  have hro : a.toNat / 1024 % 4 = 3 := htable _ ((csrOf_eq_some_iff a c).1 hc) hlow
  exact Bool.eq_false_iff.2 fun hw => hwrites hw hro

theorem OnlyUser.of_bus {s u : State} (hu : OnlyBus s u) : OnlyUser s u := by
  rw [hu]
  rfl

theorem OnlyUser.retire {s u : State} (hu : OnlyUser s u) (npc : Word) : OnlyUser s (u.retire npc) :=
  congrArg (State.retire · npc) hu

theorem OnlyUser.setReg {s u : State} (hu : OnlyUser s u) (rd : Reg) (v : Word) : OnlyUser s (u.setReg rd v) := by
  unfold OnlyUser State.setReg at *
  split
  · exact hu
  · rw [hu]

/-- From U-mode an instruction retires in U-mode, traps over what its transfers have left, or enters Debug mode. -/
theorem Effect.of_user {s t : State} (he : Effect s t) (hp : s.priv = .U) (hd : s.debugMode = false) :
    OnlyUser s t ∨ (∃ u e v, OnlyBus s u ∧ t = u.trap false (Exc.code e) v s.pc)
      ∨ t = { s.enterDebug .ebreak s.pc with log := StepLog.empty } := by
  have hend := he.trap_or_debug_of_not_retired
  have hself : OnlyUser s s := rfl
  cases he with
  | trap | loadFault | storeFault | ebreak => exact .inr (hend rfl)
  | write rd v npc => exact .inl ((hself.setReg rd v).retire npc)
  | load u rd v npc hu =>
    have huser : OnlyUser s u := by rw [hu]; rfl
    exact .inl ((huser.setReg rd v).retire npc)
  | store u npc hu => exact .inl ((OnlyUser.of_bus hu.1).retire npc)
  | csr c a rd v w writes hc hdenied =>
    have hreads : writes = false := csrAllowed_user_reads hp hc (State.csrDenied_iff.1 hdenied)
    subst hreads
    exact .inl (congrArg (State.retireCsr · (s.pc + 4#32) none) (hself.setReg rd v))
  | move | fenceI | wfi => exact .inl rfl
  | mret _ hm => exact absurd (hp.symm.trans hm) (by decide)
  | dret hd' => exact absurd (hd.symm.trans hd') (by decide)

/-- R367: an exception goes to the base of `mtvec`, whatever its mode field holds. -/
theorem State.trap_exception_pc (s : State) (e : Exc) (v epc : Word) :
    (s.trap false e.code v epc).pc.toNat = 4 * (s.mtvec.toNat / 4) := by
  have hpc := (State.trap_effect s false e.code (by cases e <;> decide) v epc).pc
  have hlt := s.mtvec.isLt
  simp only [Bool.false_eq_true, and_false, if_false, Nat.add_zero] at hpc
  rw [hpc, Nat.mod_eq_of_lt (by omega)]

/-- Settles O59: in each of the three ends of an instruction of U-mode the machine state stands, but for what a trap or
an entry to Debug mode writes. -/
theorem userModeConfined : Obligations.UserModeConfined := by
  intro s t i hp hd h
  rcases (exec_effect i h).of_user hp hd with ht | ⟨u, e, v, hu, rfl⟩ | rfl
  · unfold OnlyUser at ht
    rw [ht]
    simp [hp, hd]
  · have hpc := State.trap_exception_pc u e v s.pc
    unfold OnlyBus at hu
    rw [hu] at hpc ⊢
    simp only [State.trap_pc] at hpc
    simp [hpc, hp]
  · simp

/-! ### Instructions that do not retire, and memory (60_exceptions R360) -/

theorem State.raise_mem {s t : State} {e : Exc} {v : Word} (h : s.raise e v = .next t) : t.mem = s.mem := by
  obtain ⟨-, -, rfl⟩ := State.raise_next h
  rfl

theorem State.checked_mem {s t : State} {i : Instr} {k : Out} (h : s.checked i k = .next t)
    (hk : k = .next t → t.mem = s.mem) : t.mem = s.mem :=
  (State.checked_next h).elim hk State.raise_mem

theorem State.writeBack_mem {s t : State} {i : Instr} {n : Word} {rd : Reg} {v : Word}
    (h : s.writeBack i n rd v = .next t) : t.mem = s.mem :=
  State.checked_mem h fun hk => by cases hk; simp

theorem State.advance_mem {s t : State} {i : Instr} {n : Word} (h : s.advance i n = .next t) : t.mem = s.mem :=
  State.checked_mem h fun hk => by cases hk; rfl

theorem State.jump_mem {s t : State} {i : Instr} {n : Word} {rd : Reg} {target : Word}
    (h : s.jump i n rd target = .next t) : t.mem = s.mem :=
  State.checked_mem h fun hk => by cases hk; simp

theorem State.branch_mem {s t : State} {i : Instr} {n offset : Word} {c : Bool}
    (h : s.branch i n c offset = .next t) : t.mem = s.mem :=
  State.checked_mem h fun hk => by cases hk; rfl

theorem State.load_mem {s t : State} {i : Instr} {n ea : Word} {rd : Reg} {w : Width} {ext : Word → Word}
    (h : s.load i n rd ea w ext = .next t) : t.mem = s.mem := by
  rcases State.load_next h with ⟨u, v, hu, rfl⟩ | ⟨u, e, v, hu, hraise⟩
  · rw [hu]
    simp
  · rw [State.raise_mem hraise, hu]

theorem State.csrAccess_mem {s t : State} {i : Instr} {rd : Reg} {a : CsrAddr} {writes : Bool} {new : Word → Word}
    (h : s.csrAccess i rd a writes new = .next t) : t.mem = s.mem := by
  rcases State.csrAccess_next h with ⟨c, -, -, rfl⟩ | ⟨e, v, hraise⟩
  · obtain ⟨-, hmem, -⟩ := s.writeCsr_frame c (new (s.readCsr c))
    cases writes <;> simp [hmem]
  · exact State.raise_mem hraise

theorem State.breakpoint_mem {s t : State} (h : s.breakpoint = .next t) : t.mem = s.mem := by
  rcases State.breakpoint_next h with ⟨-, rfl⟩ | hraise
  · rfl
  · exact State.raise_mem hraise

/-- No instruction but a store writes data memory. -/
theorem exec_mem_of_not_store {s t : State} {i : Instr} (hi : storeForm s i = none) (h : exec i s = .next t) :
    t.mem = s.mem := by
  cases i with
  | sb | sh | sw | cSw | cSwsp => cases hi
  | lb | lh | lw | lbu | lhu | cLw | cLwsp => exact State.load_mem h
  | jal | jalr | cJal | cJ | cJr | cJalr => exact State.jump_mem h
  | beq | bne | blt | bge | bltu | bgeu | cBeqz | cBnez => exact State.branch_mem h
  | csrrw => change execCsrrw _ _ _ s = _ at h; exact State.csrAccess_mem h
  | csrrs => change execCsrrs _ _ _ s = _ at h; exact State.csrAccess_mem h
  | csrrc => change execCsrrc _ _ _ s = _ at h; exact State.csrAccess_mem h
  | csrrwi => change execCsrrwi _ _ _ s = _ at h; exact State.csrAccess_mem h
  | csrrsi => change execCsrrsi _ _ _ s = _ at h; exact State.csrAccess_mem h
  | csrrci => change execCsrrci _ _ _ s = _ at h; exact State.csrAccess_mem h
  | fence | cNop => exact State.advance_mem h
  | fenceI rd rs1 imm =>
    change execFenceI rd rs1 imm s = _ at h
    exact State.advance_mem (s := { s with stale := [] }) h
  | ebreak | cEbreak => exact State.breakpoint_mem h
  | ecall =>
    change execEcall s = _ at h
    unfold execEcall at h
    split at h
    · exact State.raise_mem h
    · exact State.raise_mem h
  | mret =>
    change execMret s = _ at h
    unfold execMret at h
    split at h
    · cases h
    · split at h
      · cases h; rfl
      · exact State.raise_mem h
  | wfi =>
    change execWfi s = _ at h
    unfold execWfi at h
    split at h
    · exact State.raise_mem h
    · cases h; rfl
  | dret =>
    change execDret s = _ at h
    unfold execDret at h
    split at h
    · cases h; rfl
    · exact State.raise_mem h
  | _ => exact State.writeBack_mem h

/-- Settles O60: an instruction that does not retire ends in a way that writes no register, and memory is a store's to
change. -/
theorem preciseTraps : Obligations.PreciseTraps := by
  intro s t i h hret
  refine ⟨?regs, ?context, fun hsb hsh hsw hcSw hcSwsp => ?bytes⟩
  case bytes =>
    have hform : storeForm s i = none := by
      cases i with
      | sb => exact absurd rfl (hsb _ _ _)
      | sh => exact absurd rfl (hsh _ _ _)
      | sw => exact absurd rfl (hsw _ _ _)
      | cSw => exact absurd rfl (hcSw _ _ _)
      | cSwsp => exact absurd rfl (hcSwsp _ _)
      | _ => rfl
    intro a
    rw [State.byteAt, exec_mem_of_not_store hform h]
    rfl
  all_goals rcases (exec_effect i h).trap_or_debug_of_not_retired hret with ⟨u, e, v, hu, rfl⟩ | rfl
  case regs.inl =>
    intro r
    rw [State.trap_reg, hu]
    rfl
  case regs.inr => exact fun _ => rfl
  case context.inl => exact fun _ => ⟨rfl, rfl⟩
  case context.inr => exact nofun

end Sys2Proof.Machine

/-! The CSR instructions (47_zicsr R330..R337), FENCE.I (48_zifencei R343) and the privileged instructions
(49_privileged R346..R348), and the statements about them (O47, O37, O41, O42, O43, O44, O45). -/

namespace Sys2Proof.Machine

open Sys2Proof

/-! ### Zicsr (R330..R337) -/

theorem immUimm_eq_ofNat (uimm : BitVec 5) : immUimm uimm = BitVec.ofNat 32 uimm.toNat :=
  (BitVec.ofNat_toNat 32 uimm).symm

/-- R331: the set and clear forms write unless their operand field is zero. -/
theorem written_of_field_ne_zero (field : BitVec 5) (v : Word) :
    (if decide (field ≠ 0#5) = true then some v else none) = if field = 0#5 then none else some v := by
  by_cases h : field = 0#5
  · simp [h]
  · simp [h]

/-- An instruction that is `State.csrAccess`: its encoding decodes to it, and an allowed access has its whole effect. -/
theorem decodes_and_accesses {s : State} {i : Instr} {rd : Reg} {a : CsrAddr} {c : Csr} {w : Bool} {f : Word → Word}
    {new : Option Word} (hwf : i.wellFormed = true) (hexec : exec i s = s.csrAccess i rd a w f)
    (hc : csrOf a = some c) (hregs : RegsExist s i)
    (hnew : (if w then some (f (s.readCsr c)) else none) = new) (ha : CsrAllowed s a w) :
    decode (encode i) = .ok i ∧ ∃ t, exec i s = .next t ∧ CsrEffect c a rd new s t := by
  rw [hexec, ← hnew]
  exact ⟨decode_encode hwf, State.csrAccess_effect hc hregs ha⟩

/-- Settles O47: row by row, the access operation with the row's operand, and when it writes. -/
theorem csrInstructions : Obligations.CsrInstructions := by
  intro s rd rs1 uimm a c hc hrd
  rw [← immUimm_eq_ofNat]
  refine ⟨fun hrs1 => ⟨?csrrw, ?csrrs, ?csrrc⟩, ?csrrwi, ?csrrsi, ?csrrci⟩
  case csrrw =>
    exact decodes_and_accesses (i := .csrrw rd rs1 a) (f := fun _ => s.reg rs1) rfl rfl hc
      (RegsExist.of_two rfl hrd hrs1) rfl
  case csrrs =>
    exact decodes_and_accesses (i := .csrrs rd rs1 a) (f := fun v => v ||| s.reg rs1) rfl rfl hc
      (RegsExist.of_two rfl hrd hrs1) (written_of_field_ne_zero rs1 _)
  case csrrc =>
    exact decodes_and_accesses (i := .csrrc rd rs1 a) (f := fun v => v &&& ~~~(s.reg rs1)) rfl rfl hc
      (RegsExist.of_two rfl hrd hrs1) (written_of_field_ne_zero rs1 _)
  case csrrwi =>
    exact decodes_and_accesses (i := .csrrwi rd uimm a) (f := fun _ => immUimm uimm) rfl rfl hc
      (RegsExist.of_one rfl hrd) rfl
  case csrrsi =>
    exact decodes_and_accesses (i := .csrrsi rd uimm a) (f := fun v => v ||| immUimm uimm) rfl rfl hc
      (RegsExist.of_one rfl hrd) (written_of_field_ne_zero uimm _)
  case csrrci =>
    exact decodes_and_accesses (i := .csrrci rd uimm a) (f := fun v => v &&& ~~~(immUimm uimm)) rfl rfl hc
      (RegsExist.of_one rfl hrd) (written_of_field_ne_zero uimm _)

/-! ### FENCE.I (R343) -/

/-- FENCE.I uses no register that RV32E could lack, so it always completes. -/
theorem exec_fenceI (s : State) (rd rs1 : Reg) (imm : BitVec 12) :
    exec (.fenceI rd rs1 imm) s = .next (State.retire { s with stale := [] } (s.pc + 4#32)) :=
  State.checked_ok (by simp [regsExist, usedRegs]) _

/-- Settles O37: the encoding, and the two changes that FENCE.I makes. -/
theorem fenceI : Obligations.FenceI := fun s rd rs1 imm =>
  ⟨decode_encode (i := .fenceI rd rs1 imm) rfl, _, exec_fenceI s rd rs1 imm, rfl, rfl, rfl, fun _ => rfl,
    fun _ => rfl, rfl⟩

/-! ### MRET (R346) -/

theorem exec_mret_of_machine {s : State} (hd : s.debugMode = false) (hp : s.priv = .M) :
    exec .mret s = .next s.trapReturn := by
  change execMret s = _
  simp [execMret, hd, hp]

theorem exec_mret_of_user {s : State} (hd : s.debugMode = false) (hp : s.priv = .U) :
    exec .mret s = s.raise .illegalInstruction 0x30200073#32 := by
  change execMret s = _
  simp [execMret, hd, hp]

/-- Settles O41: in M-mode the return itself, in U-mode the exception. -/
theorem mretReturns : Obligations.MretReturns := by
  intro s hd
  refine ⟨decode_encode (i := .mret) rfl, fun hp => ?machine, fun hp hn => ?user⟩
  case machine =>
    refine ⟨s.trapReturn, exec_mret_of_machine hd hp, rfl, rfl, rfl, rfl, rfl, rfl, ?_, rfl, fun _ => rfl,
      fun _ => rfl, rfl⟩
    cases hn : s.inNmi <;> simp [State.mstatusAfterMret, hn]
  case user =>
    rw [exec_mret_of_user hd hp]
    exact State.raise_effect ⟨hd, hn⟩ .illegalInstruction _

/-- R41: an address whose bit 0 is clear is saved as it is. -/
theorem evenAddr_of_even {a : Word} (h : a.getLsbD 0 = false) : evenAddr a = a := by
  have heven : a.toNat % 2 = 0 := by simpa [BitVec.getLsbD, Nat.testBit_zero] using h
  apply BitVec.eq_of_toNat_eq
  rw [toNat_evenAddr]
  omega

/-- Settles O42: the NMI moves each part of the trap context up by one place, and MRET moves it back
(60_exceptions R376, R377). -/
theorem nmiTransparent : Obligations.NmiTransparent := by
  intro s hd hn hpc
  have hmepc : s.takeNmi.trapReturn.pc = s.pc := evenAddr_of_even hpc
  exact ⟨s.takeNmi.trapReturn, exec_mret_of_machine (s := s.takeNmi) hd rfl, hmepc, rfl, rfl, rfl, rfl, rfl, rfl, rfl,
    fun _ => rfl, fun _ => rfl⟩

/-! ### WFI (R347) -/

theorem exec_wfi_of_trapped {s : State} (h : s.priv = .U ∧ s.mstatus.tw = true) :
    exec .wfi s = s.raise .illegalInstruction 0x10500073#32 :=
  if_pos h

theorem exec_wfi_of_allowed {s : State} (h : ¬(s.priv = .U ∧ s.mstatus.tw = true)) :
    exec .wfi s = .next (State.retire { s with wfiSleep := s.wfiSleeps } (s.pc + 4#32)) :=
  if_neg h

/-- The hart wakes, or stays awake, for an NMI, a debug request, and an interrupt that is pending and enabled. -/
theorem State.wakes_eq_false_iff {s : State} :
    s.wakes = false ↔ s.lines.nmi = false ∧ s.lines.debugReq = false ∧ s.mip &&& s.mie = 0#32 := by
  simp [State.wakes, and_assoc]

theorem State.wfiSleeps_iff {s : State} :
    s.wfiSleeps = true ↔ s.wakes = false ∧ s.debugMode = false ∧ s.dcsr.step = false := by
  simp [State.wfiSleeps, and_assoc]

/-- Settles O43: what a sleep would need, and the exception under TW. -/
theorem wfiRetires : Obligations.WfiRetires := by
  intro s
  refine ⟨decode_encode (i := .wfi) rfl, fun h => ?allowed, fun h hx => ?trapped⟩
  case allowed =>
    refine ⟨_, exec_wfi_of_allowed h, rfl, rfl, fun hsleeps => ?_, fun _ => rfl, fun _ => rfl, rfl⟩
    obtain ⟨hwakes, hdebug, hstep⟩ := State.wfiSleeps_iff.1 hsleeps
    obtain ⟨hnmi, hreq, hirq⟩ := State.wakes_eq_false_iff.1 hwakes
    exact ⟨hnmi, hreq, hirq, hdebug, hstep⟩
  case trapped =>
    rw [exec_wfi_of_trapped h]
    exact State.raise_effect hx .illegalInstruction _

/-- A sleeping hart that nothing wakes lets time pass and does nothing else. -/
theorem step_of_asleep {s : State} (hr : s.input.reset = false) (hs : s.beginStep.staysAsleep = true) :
    step s = .next (s.beginStep.tick s.beginStep) := by
  rw [step_of_not_reset hr, State.hartStep, if_pos hs]

/-- Settles O44: such a step is the passing of time alone. -/
theorem wfiSleeps : Obligations.WfiSleeps := by
  intro s hsleep hr hnmi hreq hirq
  have hwakes : s.beginStep.wakes = false := State.wakes_eq_false_iff.2 ⟨hnmi, hreq, by simpa using hirq⟩
  have hasleep : s.beginStep.staysAsleep = true := by simp [State.staysAsleep, hsleep, hwakes]
  have hcount : Counted s s.beginStep (s.beginStep.tick s.beginStep) :=
    Counted.of_tick (by simp) (by simp) rfl rfl ⟨rfl, rfl, rfl⟩
  obtain ⟨hminstret, hmcycle, -⟩ := hcount.of_idle (by simp) rfl (State.beginStep_sameCounters s)
  refine ⟨_, step_of_asleep hr hasleep, by simp, by simpa using hsleep, hminstret, hmcycle, fun r => ?_,
    fun _ => rfl, ?_⟩
  · simp [State.reg]
  · have hkept : (s.beginStep.tick s.beginStep).minstret = s.beginStep.minstret :=
      hminstret.trans s.beginStep_minstret.symm
    exact congrArg (fun m => { s.beginStep.tick s.beginStep with minstret := m }) hkept

/-! ### DRET (R348) -/

theorem exec_dret_of_debug {s : State} (h : s.debugMode = true) : exec .dret s = .next s.debugReturn := if_pos h

theorem exec_dret_of_not_debug {s : State} (h : s.debugMode = false) :
    exec .dret s = s.raise .illegalInstruction 0x7B200073#32 :=
  if_neg (by simp [h])

/-- Settles O45: in Debug mode the return itself, outside it the exception. -/
theorem dretReturns : Obligations.DretReturns := by
  intro s
  refine ⟨decode_encode (i := .dret) rfl, fun h => ?debug, fun hx => ?outside⟩
  case debug =>
    exact ⟨s.debugReturn, exec_dret_of_debug h, rfl, rfl, rfl, rfl, rfl, rfl, fun _ => rfl, fun _ => rfl, rfl⟩
  case outside =>
    rw [exec_dret_of_not_debug hx.1]
    exact State.raise_effect hx .illegalInstruction _

end Sys2Proof.Machine

/-! Fetching the instruction at pc, and what stops it (20_memory R112, R115, 60_exceptions R352, R353, R377, R384): the
statements about a decoded instruction, an illegal one, a fetch that faults and what the model refuses (O9, O10, O11,
O46). -/

namespace Sys2Proof.Machine

open Sys2Proof

/-! ### The length of a parcel (30_encoding R141) -/

theorem parcelIsFull_iff (p : BitVec 16) : parcelIsFull p = true ↔ p.toNat % 4 = 3 := by
  have hfield : cOp p = 3#2 ↔ p.toNat % 4 = 3 := by
    rw [← BitVec.toNat_inj, cOp, BitVec.extractLsb'_toNat]
    simp
  simp [parcelIsFull, hfield]

theorem parcelIsFull_low_iff (w : BitVec 32) : parcelIsFull (w.extractLsb' 0 16) = true ↔ w.toNat % 4 = 3 := by
  rw [parcelIsFull_iff, BitVec.extractLsb'_toNat]
  simp only [Nat.shiftRight_zero]
  omega

/-! ### What stands at pc is what is fetched (20_memory R109, R112) -/

/-- A parcel that stands at pc can be fetched, and is what the bus reads there, whatever its length says. -/
theorem State.fetchParcel_of_stands {s : State} {p : BitVec 16} (h : StandsAtPc s (.half p)) :
    s.fetchStop s.pc = none ∧ s.fetchParcel s.pc = p := by
  have hlow := h 0 (by simp [InstrBits.len])
  have hhigh := h 1 (by simp [InstrBits.len])
  simp only [BitVec.add_zero, InstrBits.bytes, List.getElem?_cons_zero, List.getElem?_cons_succ,
    Option.some.injEq] at hlow hhigh
  obtain ⟨hfetch, hbyte⟩ := hlow
  obtain ⟨hfetch', hbyte'⟩ := hhigh
  refine ⟨State.fetchStop_none hfetch, ?_⟩
  rw [State.fetchParcel_plain hfetch hfetch', ← hbyte, ← hbyte', parcel_of_half]

/-- The bits at pc that the length of their first parcel makes an instruction, decodable or not. -/
def LengthFits (b : InstrBits) : Prop :=
  match b with
  | .half p => p.toNat % 4 ≠ 3
  | .full w => w.toNat % 4 = 3

theorem State.fetchAt_of_lengthFits {s : State} {b : InstrBits} (h : StandsAtPc s b) (hb : LengthFits b) :
    s.fetchAt s.pc = .bits b := by
  cases b with
  | half p => exact State.fetchAt_half h (Bool.eq_false_iff.2 fun hfull => hb ((parcelIsFull_iff p).1 hfull))
  | full w => exact State.fetchAt_full h ((parcelIsFull_low_iff w).2 hb)

/-! ### What each kind of fetch makes of the step (60_exceptions R352, R353, R359) -/

section
variable {s : State} (hpc : s.pc.getLsbD 0 = false)
include hpc

theorem State.runInstr_of_busError {addr : Word} (h : s.fetchAt s.pc = .busError addr) :
    s.runInstr = s.raise .instrAccessFault addr := by
  simp [State.runInstr, -BitVec.getLsbD_eq_getElem, hpc, h]

theorem State.runInstr_of_refused {r : Refusal} (h : s.fetchAt s.pc = .refused r) : s.runInstr = .refused r := by
  simp [State.runInstr, -BitVec.getLsbD_eq_getElem, hpc, h]

theorem State.runInstr_of_illegal {b : InstrBits} {e : DecodeReject} (h : s.fetchAt s.pc = .bits b)
    (hd : decode b = .error e) : s.runInstr = s.raise .illegalInstruction b.toWord := by
  simp [State.runInstr, -BitVec.getLsbD_eq_getElem, hpc, h, hd]

end

/-- Settles O9: what stands at pc runs, and the step ends as every step does. -/
theorem stepRunsDecoded : Obligations.StepRunsDecoded := by
  intro s i hr hs hp hpc hwf hst
  have hrun : s.beginStep.awake.runAwake = exec i s.beginStep.awake :=
    State.runAwake_of_stands hp (by simpa using hpc) hwf hst
  rw [step_of_not_reset hr, State.hartStep, hs, hrun]
  rfl

/-- Settles O10: the bits are fetched whatever they are, and the decoder's error is an illegal instruction. -/
theorem illegalWordTraps : Obligations.IllegalWordTraps := by
  intro s b e hx hpc hst hb hd
  have hfits : LengthFits b := by cases b <;> exact hb
  rw [State.runInstr_of_illegal hpc (State.fetchAt_of_lengthFits hst hfits) hd]
  exact State.raise_effect hx .illegalInstruction _

/-! ### Fetches that cannot be made (20_memory R112, R115, R121) -/

theorem State.fetchStop_of_cannotFetch {s : State} {a : Word} (h : CannotFetch s a) :
    s.fetchStop a = some (.busError a) := by
  rw [State.fetchStop, State.fetchAnswer_busError.2 h]

theorem State.fetchStop_of_device {s : State} {a : Word} {r : Region}
    (hr : regionAt (Config.fetchMap s.cfg) a = some r) (hk : r.kind = .device) (hm : mayFetch s r = true) :
    s.fetchStop a = some (.refused .fetchFromDevice) := by
  have hans : s.fetchAnswer a = .device := by simp [State.fetchAnswer, hr, canFetch_eq, hm, hk, RegionKind.answer]
  rw [State.fetchStop, hans]

theorem State.fetchAt_of_first_stop {s : State} {a : Word} {stop : FetchResult} (h : s.fetchStop a = some stop) :
    s.fetchAt a = stop := by
  rw [State.fetchAt, h]

/-- The second parcel of a 32-bit instruction stops the fetch when its first has been fetched. -/
theorem State.fetchAt_of_second_stop {s : State} {lo : BitVec 16} {stop : FetchResult} (h : StandsAtPc s (.half lo))
    (hl : lo.toNat % 4 = 3) (hstop : s.fetchStop (s.pc + 2#32) = some stop) : s.fetchAt s.pc = stop := by
  obtain ⟨hfirst, hparcel⟩ := State.fetchParcel_of_stands h
  simp [State.fetchAt, hfirst, hparcel, (parcelIsFull_iff lo).2 hl, hstop]

/-- Settles O11: the fetch of either parcel ends with the error of the parcel it came for. -/
theorem fetchFaults : Obligations.FetchFaults := by
  refine fun s hx hpc => ⟨fun hfault => ?first, fun lo hst hl hfault => ?second⟩
  case first =>
    rw [State.runInstr_of_busError hpc (State.fetchAt_of_first_stop (State.fetchStop_of_cannotFetch hfault))]
    exact State.raise_effect hx .instrAccessFault _
  case second =>
    rw [State.runInstr_of_busError hpc (State.fetchAt_of_second_stop hst hl (State.fetchStop_of_cannotFetch hfault))]
    exact State.raise_effect hx .instrAccessFault _

/-! ### What the model refuses (assumptions 17, 19, 20) -/

theorem State.raise_in_debug {s : State} (h : s.debugMode = true) (e : Exc) (v : Word) :
    s.raise e v = .refused .exceptionInDebugMode := if_pos h

theorem State.raise_in_nmi {s : State} (hd : s.debugMode = false) (hn : s.inNmi = true) (e : Exc) (v : Word) :
    s.raise e v = .refused .exceptionInNmi := by
  simp [State.raise, hd, hn]

/-- In either mode ECALL raises an exception. -/
theorem exec_ecall (s : State) : ∃ e, exec .ecall s = s.raise e 0#32 := by
  change ∃ e, execEcall s = s.raise e 0#32
  unfold execEcall
  split
  · exact ⟨_, rfl⟩
  · exact ⟨_, rfl⟩

/-- In Debug mode the `dcsr` bits say nothing of EBREAK. -/
theorem State.breakpoint_in_debug {s : State} (h : s.debugMode = true) :
    s.breakpoint = .refused .exceptionInDebugMode := by
  have hno : s.ebreakEntersDebug = false := by simp [State.ebreakEntersDebug, h]
  rw [State.breakpoint, hno]
  exact State.raise_in_debug h _ _

/-- Settles O46: which exceptions and which fetches are refused, and under which name. -/
theorem stopsByName : Obligations.StopsByName := by
  intro s
  obtain ⟨e, hecall⟩ := exec_ecall s
  refine ⟨fun hd => ⟨if_pos hd, ?_, State.breakpoint_in_debug hd, State.breakpoint_in_debug hd⟩, fun hd hn => ?_,
    fun _ _ => rfl, fun r hpc hr hk hm => ?first, fun lo r hpc hst hl hr hk hm => ?second⟩
  · rw [hecall, State.raise_in_debug hd]
  · rw [hecall, State.raise_in_nmi hd hn]
  case first =>
    exact State.runInstr_of_refused hpc (State.fetchAt_of_first_stop (State.fetchStop_of_device hr hk hm))
  case second =>
    exact State.runInstr_of_refused hpc (State.fetchAt_of_second_stop hst hl (State.fetchStop_of_device hr hk hm))

end Sys2Proof.Machine

/-! What comes before the instruction at pc (60_exceptions R370..R376, R385): interrupts by priority, the NMI, debug
requests and triggers, and the statements about them (O54, O55, O56, O57). -/

namespace Sys2Proof.Machine

open Sys2Proof

/-! ### Pending interrupts and their order (R371, R374) -/

theorem mem_interruptOrder_iff (n : Nat) : n ∈ interruptOrder ↔ IsInterrupt n := by
  simp only [interruptOrder, IsInterrupt, List.mem_cons, List.not_mem_nil, or_false]
  omega

theorem pendingEnabled_iff (s : State) (n : Nat) : PendingEnabled s n ↔ (s.mip &&& s.mie).getLsbD n = true := by
  rw [BitVec.getLsbD_and, Bool.and_eq_true]
  rfl

/-- R347: it ends a WFI sleep too. -/
theorem State.wakes_of_pendingEnabled {s : State} {n : Nat} (hp : PendingEnabled s n) : s.wakes = true := by
  by_contra hw
  obtain ⟨-, -, hnone⟩ := State.wakes_eq_false_iff.1 (Bool.eq_false_iff.2 hw)
  have hbit := (pendingEnabled_iff s n).1 hp
  rw [hnone, BitVec.getLsbD_zero] at hbit
  cases hbit

/-- R374: the list stands in the rule's order of priority. -/
theorem interruptOrder_sorted : interruptOrder.Pairwise fun m n => interruptRank m < interruptRank n := by decide

theorem State.pendingInterrupt_eq_none {s : State} (h : s.mip &&& s.mie = 0#32) : s.pendingInterrupt = none := by
  simp [State.pendingInterrupt, h]

/-- R374: the first pending and enabled interrupt of the list is the one of highest priority. -/
theorem State.pendingInterrupt_of_least_rank {s : State} {n : Nat} (hn : IsInterrupt n) (hp : PendingEnabled s n)
    (hleast : ∀ m : Nat, IsInterrupt m → PendingEnabled s m → interruptRank n ≤ interruptRank m) :
    s.pendingInterrupt = some n := by
  have hmem : n ∈ interruptOrder := (mem_interruptOrder_iff n).2 hn
  obtain ⟨m, hm⟩ : ∃ m, s.pendingInterrupt = some m :=
    Option.isSome_iff_exists.1 (List.find?_isSome.2 ⟨n, hmem, (pendingEnabled_iff s n).1 hp⟩)
  obtain ⟨hpend, before, after, hsplit, hbefore⟩ := List.find?_eq_some_iff_append.1 hm
  have hm' : IsInterrupt m := (mem_interruptOrder_iff m).1 (List.mem_of_find?_eq_some hm)
  have hle : interruptRank n ≤ interruptRank m := hleast m hm' ((pendingEnabled_iff s m).2 hpend)
  have hsorted := interruptOrder_sorted
  rw [hsplit] at hmem hsorted
  rcases List.mem_append.1 hmem with hin | hin
  · have hnot := hbefore n hin
    rw [(pendingEnabled_iff s n).1 hp] at hnot
    cases hnot
  · rcases List.mem_cons.1 hin with rfl | hin
    · exact hm
    · obtain ⟨-, htail, -⟩ := List.pairwise_append.1 hsorted
      have hlt := List.rel_of_pairwise_cons htail hin
      exact absurd hle (Nat.not_le.2 hlt)

/-! ### The cases of `preempt`, in their order (R372, R385; assumption 21) -/

section
variable {s : State}

theorem State.preempt_of_debugMode (h : s.debugMode = true) : s.preempt = none := if_pos h

theorem State.preempt_of_debugReq (hd : s.debugMode = false) (h : s.lines.debugReq = true) :
    s.preempt = some (s.enterDebug .haltreq s.pc) := by
  simp [State.preempt, hd, h]

variable (hd : s.debugMode = false) (hreq : s.lines.debugReq = false)
include hd hreq

theorem State.preempt_of_nmi (h : s.lines.nmi = true) (hn : s.inNmi = false) : s.preempt = some s.takeNmi := by
  simp [State.preempt, hd, hreq, h, hn]

variable (hnmi : s.lines.nmi = false ∨ s.inNmi = true)
include hnmi

theorem State.preempt_of_interrupt {n : Nat} (hp : s.pendingInterrupt = some n) (he : s.interruptsEnabled = true)
    (hn : s.inNmi = false) (hstep : s.stepMasksInterrupts = false) :
    s.preempt = some (s.trap true n 0#32 s.pc) := by
  have hline : s.lines.nmi = false := hnmi.resolve_right (by simp [hn])
  simp [State.preempt, hd, hreq, hline, hp, he, hn, hstep]

/-- No interrupt is taken when none is pending and enabled, or when they are masked as a whole: what is left is the
triggers. -/
theorem State.preempt_of_masked
    (h : s.pendingInterrupt = none ∨ s.interruptsEnabled = false ∨ s.inNmi = true) :
    s.preempt = if s.triggerHit then some (s.enterDebug .trigger s.pc) else none := by
  have htaken : (s.lines.nmi && !s.inNmi) = false := by rcases hnmi with e | e <;> simp [e]
  cases hp : s.pendingInterrupt with
  | none => simp [State.preempt, hd, hreq, htaken, hp]
  | some n =>
    have hmask : (s.interruptsEnabled && !s.inNmi) = false := by
      rcases h.resolve_left (by simp [hp]) with e | e <;> simp [e]
    simp [State.preempt, hd, hreq, htaken, hp, hmask]

end

/-! ### The statements -/

/-- An event that comes before the instruction ends the step with the passing of time, when no single step follows. -/
theorem step_of_preempt {s u : State} (hr : s.input.reset = false) (hs : s.dcsr.step = false)
    (hw : s.beginStep.wakes = true) (hp : s.beginStep.awake.preempt = some u) :
    step s = .next (s.beginStep.awake.tick u) := by
  have hawake : s.beginStep.staysAsleep = false := by simp [State.staysAsleep, hw]
  have hrun : s.beginStep.awake.runAwake = .next u := by rw [State.runAwake, hp]
  have hsingle : s.beginStep.awake.singleStep u = u := by simp [State.singleStep, hs]
  rw [step_of_not_reset hr, State.hartStep, hawake, hrun]
  simp only [Bool.false_eq_true, if_false, State.finish, hsingle]

/-- Settles O54: the interrupt of highest priority wakes the hart and is taken before the instruction. -/
theorem interruptTaken : Obligations.InterruptTaken := by
  intro s n hr hd hn hs hreq hnmi hen hi hp hleast
  have hpending : s.beginStep.awake.pendingInterrupt = some n := State.pendingInterrupt_of_least_rank hi hp hleast
  have henabled : s.beginStep.awake.interruptsEnabled = true := by simpa [State.interruptsEnabled] using hen
  refine ⟨_, step_of_preempt hr hs (State.wakes_of_pendingEnabled hp) (State.preempt_of_interrupt (by simpa using hd)
    hreq (.inl hnmi) hpending henabled (by simpa using hn) (by simp [State.stepMasksInterrupts, hs])), ?_⟩
  have hcode : n < 2 ^ 31 := by
    unfold IsInterrupt at hi
    omega
  simpa using State.trap_effect s.beginStep.awake true n hcode 0#32 s.beginStep.awake.pc

/-- Settles O55: the NMI wakes the hart and is taken before the instruction, over the saved context. -/
theorem nmiTaken : Obligations.NmiTaken := by
  intro s hr hd hn hs hreq hnmi
  have hwakes : s.beginStep.wakes = true := by simp [State.wakes, hnmi]
  refine ⟨s.beginStep.awake.takeNmi, step_of_preempt hr hs hwakes
    (State.preempt_of_nmi (by simpa using hd) hreq hnmi (by simpa using hn)), rfl, by simp [State.takeNmi], ?_⟩
  have htrap := State.trap_effect
    { s.beginStep.awake with
      nmiSaved := ⟨s.mstatus.mpp, s.mstatus.mpie, s.mepc, s.mcause⟩
      inNmi := true } true 32 (by decide) 0#32 s.pc
  simpa [State.takeNmi] using htrap

/-- Settles O56: with every interrupt masked only a trigger could come before the instruction. -/
theorem interruptsMasked : Obligations.InterruptsMasked := by
  intro s hreq hnmi htrigger hmask
  cases hd : s.debugMode with
  | true => exact State.preempt_of_debugMode hd
  | false =>
    have hnone : s.pendingInterrupt = none ∨ s.interruptsEnabled = false ∨ s.inNmi = true := by
      rcases hmask with hirq | ⟨hp, hmie⟩ | hn
      · exact .inl (State.pendingInterrupt_eq_none hirq)
      · exact .inr (.inl (by simp [State.interruptsEnabled, hp, hmie]))
      · exact .inr (.inr hn)
    rw [State.preempt_of_masked hd hreq hnmi hnone, htrigger]
    rfl

/-- Settles O57: the two events that enter Debug mode, each where it stands in the order. -/
theorem debugEntries : Obligations.DebugEntries := by
  refine fun s hd => ⟨fun hreq => ?request, fun hreq hnmi hirq hhit => ?trigger⟩
  case request => exact ⟨_, State.preempt_of_debugReq hd hreq, State.enterDebug_effect s .haltreq s.pc⟩
  case trigger =>
    have htrigger : s.triggerHit = true := by simpa [State.triggerHit] using hhit
    refine ⟨s.enterDebug .trigger s.pc, ?_, State.enterDebug_effect s .trigger s.pc⟩
    rw [State.preempt_of_masked hd hreq (.inl hnmi) (.inl (State.pendingInterrupt_eq_none hirq)), htrigger]
    rfl

end Sys2Proof.Machine

/-! Reset (70_reset_and_hazards R400..R404): what it leaves, that it meets the invariant, and what it leaves of the step
it interrupts (O5, O6, O7). -/

namespace Sys2Proof.Machine

open Sys2Proof

/-! ### The state after reset (R401, R402) -/

section
variable (cfg : Config) (mem imem : Memory) (lines : Lines) (inputs : List Input) (device : List DeviceAccess)
  (draws : Nat)

/-- 10_state R46: there is no trigger to show, or the first one, which is not armed. -/
theorem readTdata1_resetWith :
    (State.resetWith cfg mem imem lines inputs device draws).readTdata1
      = if cfg.dbgTriggers = 0 then 0#32 else 0x28001048#32 := by
  have hsel : (State.resetWith cfg mem imem lines inputs device draws).selectedTrigger
      = (List.replicate cfg.dbgTriggers (⟨false, 0#32⟩ : Trigger))[0]? := rfl
  rw [State.readTdata1, hsel]
  cases cfg.dbgTriggers with
  | zero => rfl
  | succ k => rfl

/-- 10_state R51: what the constant fields and the privilege field of `dcsr` make of it. -/
theorem readCsr_dcsr_resetWith :
    (State.resetWith cfg mem imem lines inputs device draws).readCsr .dcsr = 0x40000003#32 := by
  change Dcsr.word ⟨false, false, false, 0#3, false, .M⟩ = 0x40000003#32
  decide

end

/-- Settles O5: every value is the field's, but for the trigger and the event selectors that the configuration makes. -/
theorem resetValues : Obligations.ResetValues := by
  rintro cfg mem imem lines inputs device draws t rfl
  have htdata1 := readTdata1_resetWith cfg mem imem lines inputs device draws
  have hdcsr := readCsr_dcsr_resetWith cfg mem imem lines inputs device draws
  exact ⟨rfl, rfl, rfl, rfl, rfl, rfl, rfl, rfl, rfl, rfl, htdata1, hdcsr, rfl, rfl, rfl, rfl,
    fun k => mhpmevent_eq cfg k, rfl, rfl, rfl, rfl, rfl, rfl, rfl, rfl, rfl, rfl, rfl, rfl, rfl⟩

/-- Settles O7: the standard configuration is one the parameters allow, and an empty memory is canonical. -/
theorem resetInv : Obligations.ResetInv :=
  inv_resetWith (cfg := Config.standard) (by decide) rfl rfl _ _ _ _

/-! ### The transfers of the interrupted instruction (R403, 20_memory R108) -/

theorem State.dataAccess_of_loadForm {s : State} {i : Instr} {f : LoadForm} (h : loadForm s i = some f) :
    s.dataAccess i = some (f.ea, f.width) := by
  cases i with
  | lb | lh | lw | lbu | lhu =>
    cases h
    rw [← State.effAddr_eq_baseAddr]
    rfl
  | cLw | cLwsp =>
    cases h
    rw [← State.reg_add_eq_wordAddr]
    rfl
  | _ => cases h

theorem State.dataAccess_of_storeForm {s : State} {i : Instr} {f : StoreForm} (h : storeForm s i = some f) :
    s.dataAccess i = some (f.ea, f.width) := by
  cases i with
  | sb | sh | sw =>
    cases h
    rw [← State.effAddr_eq_baseAddr]
    rfl
  | cSw | cSwsp =>
    cases h
    rw [← State.reg_add_eq_wordAddr]
    rfl
  | _ => cases h

theorem State.dataAccess_of_neither {s : State} {i : Instr} (hl : loadForm s i = none) (hs : storeForm s i = none) :
    s.dataAccess i = none := by
  cases i with
  | lb | lh | lw | lbu | lhu | cLw | cLwsp => cases hl
  | sb | sh | sw | cSw | cSwsp => cases hs
  | _ => rfl

/-- What an access reads of the state: the general registers. -/
theorem State.dataAccess_congr {s t : State} (h : t.regs = s.regs) (i : Instr) : t.dataAccess i = s.dataAccess i := by
  have hreg : ∀ r, t.reg r = s.reg r := fun r => by rw [State.reg, State.reg, h]
  simp only [State.dataAccess, State.effAddr, hreg]

theorem State.beginStep_dataAccess (s : State) (i : Instr) : s.beginStep.dataAccess i = s.dataAccess i :=
  State.dataAccess_congr s.beginStep_regs i

/-- The transfers of a step's instruction are those of what stands at pc. -/
theorem State.transfers_of_stands {s : State} {i : Instr} (hwf : i.wellFormed = true)
    (h : StandsAtPc s (encode i)) : s.transfers = s.transfersOf i := by
  have hdec := decode_encode hwf
  simp only [State.transfers, State.fetchAt_of_stands h hdec, hdec]

theorem State.transfersOf_of_access {s : State} {i : Instr} {ea : Word} {w : Width}
    (h : s.dataAccess i = some (ea, w)) : s.transfersOf i = splitAccess s.cfg.misalignedSplit ea w := by
  simp only [State.transfersOf, h]

theorem State.transfersOf_of_no_access {s : State} {i : Instr} (h : s.dataAccess i = none) :
    s.transfersOf i = [] := by
  simp only [State.transfersOf, h]

/-! ### The reset state over what stays (R403, R404; assumption 28) -/

/-- The interrupted step had a next state: the bytes and device transfers of its made transfers stay. -/
theorem State.resetDuring_next {s u : State} {made : List Part} (hm : Memory.wf s.mem = true) (a : Word) :
    (s.resetDuring made (.next u)).byteAt a
      = if a ∈ made.flatMap Part.addrs then u.byteAt a else s.byteAt a :=
  Memory.readByte_takeOver u.mem (made.flatMap Part.addrs) hm a

/-- The interrupted step had none: everything outside the hart is as the step began with it. -/
theorem State.resetDuring_of_no_next {s : State} {made : List Part} {o : Out} (h : ∀ u, o ≠ .next u) :
    (s.resetDuring made o).mem = s.mem ∧ (s.resetDuring made o).device = s.device := by
  cases o with
  | next u => exact absurd rfl (h u)
  | fault r => exact ⟨rfl, rfl⟩
  | refused r => exact ⟨rfl, rfl⟩

/-- Settles O6: the reset state over the memory and devices that the made transfers leave, and which transfers the
interrupted instruction has. -/
theorem resetSignal : Obligations.ResetSignal := by
  intro s hr hm
  have hmem : Memory.wf s.beginStep.mem = true := State.wf_agentWrites hm
  refine ⟨⟨_, step_of_reset hr, ?state, ?canonical,
    fun u hu => ⟨Config.freeResetCut s.beginStep.draws, ?bytes, ?device⟩, fun hnone => ?untouched⟩,
    fun i hwf hst => ?transfers⟩
  case state =>
    obtain ⟨new, addrs, device, e⟩ :=
      s.beginStep.resetDuring_eq s.beginStep.transfersMade s.beginStep.interrupted
    rw [e]
    simp [State.resetWith]
  case canonical =>
    obtain ⟨new, addrs, device, e⟩ :=
      s.beginStep.resetDuring_eq s.beginStep.transfersMade s.beginStep.interrupted
    rw [e]
    exact Memory.wf_takeOver new addrs hmem
  case bytes =>
    intro a
    rw [hu]
    exact State.resetDuring_next hmem a
  case device =>
    rw [hu, ← s.beginStep_device]
    rfl
  case untouched =>
    obtain ⟨hsame, hdevice⟩ := State.resetDuring_of_no_next (made := s.beginStep.transfersMade) hnone
    exact ⟨fun a => by rw [State.byteAt, hsame]; rfl, hdevice.trans s.beginStep_device⟩
  case transfers =>
    rw [State.transfers_of_stands hwf hst, ← s.beginStep_cfg]
    refine ⟨fun f hf => ?_, fun f hf => ?_, fun hl hs => ?_⟩
    · exact State.transfersOf_of_access ((s.beginStep_dataAccess i).trans (State.dataAccess_of_loadForm hf))
    · exact State.transfersOf_of_access ((s.beginStep_dataAccess i).trans (State.dataAccess_of_storeForm hf))
    · exact State.transfersOf_of_no_access ((s.beginStep_dataAccess i).trans (State.dataAccess_of_neither hl hs))

end Sys2Proof.Machine

/-! The CLINT's registers on the data bus (60_exceptions R387, assumption 18): what an aligned word access reads and
writes, and the statement about it (O35). -/

namespace Sys2Proof.Machine

open Sys2Proof

/-! ### The bytes of a 64-bit register -/

/-- Two 64-bit values with the same eight bytes are equal. -/
theorem eq_of_bytes_eq {x y : BitVec 64} (h : ∀ j < 8, x.extractLsb' (8 * j) 8 = y.extractLsb' (8 * j) 8) : x = y := by
  apply BitVec.eq_of_getLsbD_eq
  intro i hi
  have hbit := congrArg (fun b => b.getLsbD (i % 8)) (h (i / 8) (by omega))
  have hmod : i % 8 < 8 := by omega
  simpa only [BitVec.getLsbD_extractLsb', hmod, decide_true, Bool.true_and, Nat.div_add_mod] using hbit

/-- Consecutive bytes replaced, from byte `first` on. -/
theorem foldl_setByte64_byte (m : BitVec 64) (b : Nat → Byte) (first n j : Nat) (hj : j < 8) :
    ((List.range n).foldl (fun m k => setByte64 m (first + k) (b k)) m).extractLsb' (8 * j) 8
      = if first ≤ j ∧ j < first + n then b (j - first) else m.extractLsb' (8 * j) 8 := by
  induction n with
  | zero => simp
  | succ n ih =>
    rw [List.range_succ, List.foldl_append, List.foldl_cons, List.foldl_nil, setByte64_byte _ _ _ hj, ih]
    by_cases hlast : j = first + n
    · simp [hlast]
    · have hiff : (first ≤ j ∧ j < first + (n + 1)) ↔ (first ≤ j ∧ j < first + n) := by omega
      simp only [hlast, if_false, hiff]

/-- The low four bytes are those of the low half, the others those of the high half. -/
theorem byte_of_half (m : BitVec 64) {j : Nat} (hj : j < 8) :
    m.extractLsb' (8 * j) 8 = if j < 4 then byteOf (lowHalf m) j else byteOf (highHalf m) (j - 4) := by
  apply BitVec.eq_of_getLsbD_eq
  intro i hi
  split
  · have hlow : 8 * j + i < 32 := by omega
    simp only [byteOf, lowHalf, BitVec.getLsbD_extractLsb', hi, hlow, decide_true, Bool.true_and, Nat.zero_add]
  · have hhigh : 8 * (j - 4) + i < 32 := by omega
    have hpos : 32 + (8 * (j - 4) + i) = 8 * j + i := by omega
    simp only [byteOf, highHalf, BitVec.getLsbD_extractLsb', hi, hhigh, hpos, decide_true, Bool.true_and]

theorem setLowHalf_byte (m : BitVec 64) (v : Word) {j : Nat} (hj : j < 8) :
    (setLowHalf m v).extractLsb' (8 * j) 8 = if j < 4 then byteOf v j else m.extractLsb' (8 * j) 8 := by
  rw [byte_of_half _ hj, byte_of_half m hj, lowHalf_setLowHalf, highHalf_setLowHalf]
  split <;> rfl

theorem setHighHalf_byte (m : BitVec 64) (v : Word) {j : Nat} (hj : j < 8) :
    (setHighHalf m v).extractLsb' (8 * j) 8 = if 4 ≤ j then byteOf v (j - 4) else m.extractLsb' (8 * j) 8 := by
  rw [byte_of_half _ hj, byte_of_half m hj, lowHalf_setHighHalf, highHalf_setHighHalf]
  rcases Nat.lt_or_ge j 4 with h | h
  · rw [if_pos h, if_pos h, if_neg (by omega)]
  · rw [if_neg (by omega), if_pos h]

theorem toNat_setLowHalf (m : BitVec 64) (v : Word) : (setLowHalf m v).toNat = m.toNat / 2 ^ 32 * 2 ^ 32 + v.toNat := by
  have hlt := m.isLt
  rw [setLowHalf, toNat_append_eq_add, highHalf_eq_ofNat, BitVec.toNat_ofNat]
  omega

theorem toNat_setHighHalf (m : BitVec 64) (v : Word) :
    (setHighHalf m v).toNat = v.toNat * 2 ^ 32 + m.toNat % 2 ^ 32 := by
  rw [setHighHalf, toNat_append_eq_add, lowHalf_eq_ofNat, BitVec.toNat_ofNat]
  omega

/-- Half `h` of a 64-bit register replaced, byte by byte. -/
theorem toNat_foldl_setByte64 (m : BitVec 64) (v : Word) {h : Nat} (hh : h < 2) :
    ((List.range 4).foldl (fun m k => setByte64 m (4 * h + k) (byteOf v k)) m).toNat
      = if h = 0 then m.toNat / 2 ^ 32 * 2 ^ 32 + v.toNat else v.toNat * 2 ^ 32 + m.toNat % 2 ^ 32 := by
  obtain rfl | rfl : h = 0 ∨ h = 1 := by omega
  · rw [if_pos rfl, ← toNat_setLowHalf]
    refine congrArg BitVec.toNat (eq_of_bytes_eq fun j hj => ?_)
    rw [foldl_setByte64_byte m (byteOf v) _ _ _ hj, setLowHalf_byte m v hj]
    simp
  · rw [if_neg (by decide), ← toNat_setHighHalf]
    refine congrArg BitVec.toNat (eq_of_bytes_eq fun j hj => ?_)
    rw [foldl_setByte64_byte m (byteOf v) _ _ _ hj, setHighHalf_byte m v hj]
    simp [hj]

/-- Half `h` of a 64-bit register read, byte by byte. -/
theorem wordOfBytes_half (m : BitVec 64) {h : Nat} (hh : h < 2) :
    wordOfBytes ((List.range 4).map fun k => m.extractLsb' (8 * (4 * h + k)) 8)
      = BitVec.ofNat 32 (m.toNat / 2 ^ (32 * h)) := by
  have hlt := m.isLt
  apply BitVec.eq_of_toNat_eq
  rw [wordOfBytes_toNat _ (by simp), BitVec.toNat_ofNat]
  obtain rfl | rfl : h = 0 ∨ h = 1 := by omega
  all_goals
    simp [List.range_succ, Nat.shiftRight_eq_div_pow]
    omega

/-! ### Which register an address belongs to -/

/-- The address is one of the four of `msip`. -/
def AtMsip (c : Config) (a : Word) : Prop := (a - Config.clintMsip c).toNat < 4

/-- The address is one of the eight of `mtimecmp`, and not of `msip`. -/
def AtMtimecmp (c : Config) (a : Word) : Prop := ¬AtMsip c a ∧ (a - Config.clintMtimecmp c).toNat < 8

/-- The address is one of the eight of `mtime`, and not of a register before it. -/
def AtMtime (c : Config) (a : Word) : Prop :=
  ¬AtMsip c a ∧ ¬(a - Config.clintMtimecmp c).toNat < 8 ∧ (a - Config.clintMtime c).toNat < 8

theorem toNat_add_ofNat_sub (a : Word) {k : Nat} (hk : k < 2 ^ 32) : (a + BitVec.ofNat 32 k - a).toNat = k := by
  rw [BitVec.add_comm, BitVec.add_sub_cancel, BitVec.toNat_ofNat, Nat.mod_eq_of_lt hk]

theorem add_ofNat_eq_self_iff (a : Word) {k : Nat} (hk : k < 2 ^ 32) : a + BitVec.ofNat 32 k = a ↔ k = 0 := by
  refine ⟨fun e => ?_, fun e => by simp [e]⟩
  rw [← toNat_add_ofNat_sub a hk, e, BitVec.sub_self]
  rfl

/-- The place that byte `k` of half `h` has in a 64-bit register. -/
theorem toNat_half_offset (base : Word) {h k : Nat} (hh : h < 2) (hk : k < 4) :
    (base + BitVec.ofNat 32 (4 * h) + BitVec.ofNat 32 k - base).toNat = 4 * h + k := by
  rw [BitVec.add_assoc, ← BitVec.ofNat_add, toNat_add_ofNat_sub base (by omega)]

section
variable {c : Config} {ea : Word} {h k : Nat}

theorem atMsip_byte (hk : k < 4) : AtMsip c (Config.clintMsip c + BitVec.ofNat 32 k) := by
  rw [AtMsip, toNat_add_ofNat_sub _ (by omega)]
  exact hk

theorem atMtimecmp_byte (hh : h < 2) (hk : k < 4) (hea : ea = Config.clintMtimecmp c + BitVec.ofNat 32 (4 * h))
    (hmsip : ¬AtMsip c (ea + BitVec.ofNat 32 k)) : AtMtimecmp c (ea + BitVec.ofNat 32 k) := by
  refine ⟨hmsip, ?_⟩
  rw [hea, toNat_half_offset _ hh hk]
  omega

theorem atMtime_byte (hh : h < 2) (hk : k < 4) (hea : ea = Config.clintMtime c + BitVec.ofNat 32 (4 * h))
    (hothers : ¬AtMsip c (ea + BitVec.ofNat 32 k)
      ∧ ¬(ea + BitVec.ofNat 32 k - Config.clintMtimecmp c).toNat < 8) :
    AtMtime c (ea + BitVec.ofNat 32 k) := by
  refine ⟨hothers.1, hothers.2, ?_⟩
  rw [hea, toNat_half_offset _ hh hk]
  omega

end

section
variable {s : State} {a : Word}

theorem State.clintByte_at_msip (h : AtMsip s.cfg a) :
    s.clintByte a = some (if a = Config.clintMsip s.cfg ∧ s.msip then 1#8 else 0#8) := if_pos h

theorem State.clintByte_at_mtimecmp (h : AtMtimecmp s.cfg a) :
    s.clintByte a = some (s.mtimecmp.extractLsb' (8 * (a - Config.clintMtimecmp s.cfg).toNat) 8) :=
  (if_neg h.1).trans (if_pos h.2)

theorem State.clintByte_at_mtime (h : AtMtime s.cfg a) :
    s.clintByte a = some (s.mtime.extractLsb' (8 * (a - Config.clintMtime s.cfg).toNat) 8) := by
  obtain ⟨hmsip, hcmp, htime⟩ := h
  exact (if_neg hmsip).trans ((if_neg hcmp).trans (if_pos htime))

variable (v : Byte)

/-- A store of one byte to a register writes it, and its old byte may go stale. -/
theorem State.storeClintByte_of_register (h : (s.clintByte a).isSome = true) :
    ∃ stale, s.storeClintByte a v = { s.setClintByte a v with stale := stale } := by
  obtain ⟨old, hold⟩ := Option.isSome_iff_exists.1 h
  rw [State.storeClintByte, hold]
  exact ⟨_, rfl⟩

theorem State.storeClintByte_at_msip (h : AtMsip s.cfg a) :
    ∃ stale, s.storeClintByte a v
      = { s with msip := if a = Config.clintMsip s.cfg then v.getLsbD 0 else s.msip, stale := stale } := by
  obtain ⟨stale, e⟩ := State.storeClintByte_of_register (s := s) (a := a) v (by rw [State.clintByte_at_msip h]; rfl)
  have hset : s.setClintByte a v
      = { s with msip := if a = Config.clintMsip s.cfg then v.getLsbD 0 else s.msip } := by
    refine (if_pos h).trans ?_
    split <;> rfl
  exact ⟨stale, by rw [e, hset]⟩

theorem State.storeClintByte_at_mtimecmp (h : AtMtimecmp s.cfg a) :
    ∃ stale, s.storeClintByte a v
      = { s with
          mtimecmp := setByte64 s.mtimecmp (a - Config.clintMtimecmp s.cfg).toNat v
          stale := stale } := by
  obtain ⟨stale, e⟩ :=
    State.storeClintByte_of_register (s := s) (a := a) v (by rw [State.clintByte_at_mtimecmp h]; rfl)
  have hset : s.setClintByte a v
      = { s with mtimecmp := setByte64 s.mtimecmp (a - Config.clintMtimecmp s.cfg).toNat v } :=
    (if_neg h.1).trans (if_pos h.2)
  exact ⟨stale, by rw [e, hset]⟩

theorem State.storeClintByte_at_mtime (h : AtMtime s.cfg a) :
    ∃ stale, s.storeClintByte a v
      = { s with mtime := setByte64 s.mtime (a - Config.clintMtime s.cfg).toNat v, stale := stale } := by
  obtain ⟨stale, e⟩ := State.storeClintByte_of_register (s := s) (a := a) v (by rw [State.clintByte_at_mtime h]; rfl)
  have hset : s.setClintByte a v
      = { s with mtime := setByte64 s.mtime (a - Config.clintMtime s.cfg).toNat v } := by
    obtain ⟨hmsip, hcmp, htime⟩ := h
    exact (if_neg hmsip).trans ((if_neg hcmp).trans (if_pos htime))
  exact ⟨stale, by rw [e, hset]⟩

/-- A store where there is no register does nothing (assumption 18). -/
theorem State.storeClintByte_of_hole (h : s.clintByte a = none) : s.storeClintByte a v = s := by
  rw [State.storeClintByte, h]

end

/-! ### An aligned word on the bus (20_memory R108) -/

/-- The four bytes of `v` stored to the CLINT from `ea` on. -/
def State.storeClintWord (s : State) (ea v : Word) : State :=
  (List.range 4).foldl (fun t k => t.storeClintByte (ea + BitVec.ofNat 32 k) (byteOf v k)) s

/-- The value of the four bytes from `ea` on, as the CLINT gives them. -/
def State.clintWord (s : State) (ea : Word) : Word :=
  wordOfBytes ((List.range 4).map fun k =>
    (s.clintByte (ea + BitVec.ofNat 32 k)).getD (Config.freeClintByte false s.draws (ea + BitVec.ofNat 32 k)))

section
variable {s : State} {ea : Word} {r : Region} (halign : ea.toNat % 4 = 0) (hr : regionAt s.cfg.memMap ea = some r)
  (hk : r.kind = .clint)
include halign hr hk

theorem State.memWrite_clint_word (hm : mayWrite s r = true) (v : Word) :
    s.memWrite ea .word v = .done (s.storeClintWord ea v) := by
  have hans : s.writeAnswer ⟨ea, 4⟩ = .clint := by simp [State.writeAnswer, hr, canWrite_eq, hm, hk, RegionKind.answer]
  have hpart : s.writeParts (fun _ => true) ea v [⟨ea, 4⟩] = s.storeClintWord ea v := by
    simp only [State.writeParts, List.foldl_cons, List.foldl_nil, hans, State.writePart, Part.addrs, List.foldl_map,
      State.storeClintWord]
    refine List.foldl_ext _ _ _ fun t k hk4 => ?_
    have hlt : k < 4 := List.mem_range.1 hk4
    rw [toNat_add_ofNat_sub ea (by omega)]
    rfl
  rw [State.memWrite, splitAccess_word, if_pos halign]
  simp [hans, hpart, Answer.isOk]

theorem State.memRead_clint_word (hm : mayRead s r = true) : s.memRead ea .word = .value (s.clintWord ea) s := by
  have hans : s.readAnswer ⟨ea, 4⟩ = .clint := by simp [State.readAnswer, hr, canRead_eq, hm, hk, RegionKind.answer]
  have hbytes : wordOfBytes (s.partBytes ⟨ea, 4⟩) = s.clintWord ea := by
    rw [State.partBytes, hans, Part.addrs, List.map_map]
    rfl
  have hkept : s.readParts [⟨ea, 4⟩] = s := by simp [State.readParts, State.readPart, hans]
  rw [State.memRead, splitAccess_word, if_pos halign]
  simp [hans, hbytes, hkept, Answer.isOk]

end

/-! ### What a word store leaves (R387) -/

/-- A store to the CLINT leaves the registers and memory of the hart. -/
theorem State.storeClintWord_keeps (s : State) (ea v : Word) :
    (s.storeClintWord ea v).regs = s.regs ∧ (s.storeClintWord ea v).mem = s.mem := by
  unfold State.storeClintWord
  generalize List.range 4 = l
  induction l generalizing s with
  | nil => exact ⟨rfl, rfl⟩
  | cons k rest ih =>
    obtain ⟨hregs, hmem⟩ := ih (s.storeClintByte (ea + BitVec.ofNat 32 k) (byteOf v k))
    obtain ⟨hbus, hmem', -⟩ := s.storeClintByte_bus (ea + BitVec.ofNat 32 k) (byteOf v k)
    refine ⟨hregs.trans ?_, hmem.trans hmem'⟩
    rw [hbus]

/-- When the store of each byte changes one part `m` of the state as `g` says, and perhaps what is stale, the word store
changes that part and what is stale. -/
theorem State.storeClintWord_of_bytes {α : Type} (put : α → List Host.Cell → State) (g : α → Nat → α) (ea v : Word)
    (hbyte : ∀ k < 4, ∀ m stale, ∃ stale',
      (put m stale).storeClintByte (ea + BitVec.ofNat 32 k) (byteOf v k) = put (g m k) stale') (m : α)
    (stale : List Host.Cell) :
    ∃ stale', (put m stale).storeClintWord ea v = put ((List.range 4).foldl g m) stale' := by
  have hfold : ∀ l : List Nat, (∀ k ∈ l, k < 4) → ∀ m stale, ∃ stale',
      l.foldl (fun t k => t.storeClintByte (ea + BitVec.ofNat 32 k) (byteOf v k)) (put m stale)
        = put (l.foldl g m) stale' := by
    intro l
    induction l with
    | nil => exact fun _ m stale => ⟨stale, rfl⟩
    | cons k rest ih =>
      intro hl m stale
      obtain ⟨stale', hk⟩ := hbyte k (hl k List.mem_cons_self) m stale
      rw [List.foldl_cons, List.foldl_cons, hk]
      exact ih (fun j hj => hl j (List.mem_cons_of_mem k hj)) (g m k) stale'
  exact hfold (List.range 4) (fun k hk => List.mem_range.1 hk) m stale

section
variable {s : State} {ea : Word} (v : Word)

theorem State.storeClintWord_msip (hea : ea = Config.clintMsip s.cfg) :
    ∃ stale, s.storeClintWord ea v = { s with msip := v.getLsbD 0, stale := stale } := by
  have hat : ∀ k < 4, AtMsip s.cfg (ea + BitVec.ofNat 32 k) := fun k hk => hea ▸ atMsip_byte hk
  have hfirst : ∀ k < 4, ea + BitVec.ofNat 32 k = Config.clintMsip s.cfg ↔ k = 0 := fun k hk => by
    rw [← hea, add_ofNat_eq_self_iff ea (by omega)]
  have hbyte : ∀ k < 4, ∀ (m : Bool) (st : List Host.Cell), ∃ st',
      State.storeClintByte { s with msip := m, stale := st } (ea + BitVec.ofNat 32 k) (byteOf v k)
        = { s with msip := if k = 0 then (byteOf v k).getLsbD 0 else m, stale := st' } := fun k hk m st => by
    simp only [← hfirst k hk]
    exact State.storeClintByte_at_msip (s := { s with msip := m, stale := st }) (byteOf v k) (hat k hk)
  obtain ⟨stale, hstore⟩ := State.storeClintWord_of_bytes (fun m st => { s with msip := m, stale := st })
    (fun m k => if k = 0 then (byteOf v k).getLsbD 0 else m) ea v hbyte s.msip s.stale
  refine ⟨stale, hstore.trans ?_⟩
  simp [List.range_succ, byteOf]

theorem State.storeClintWord_mtimecmp {h : Nat} (hh : h < 2)
    (hea : ea = Config.clintMtimecmp s.cfg + BitVec.ofNat 32 (4 * h))
    (hmsip : ∀ k < 4, ¬AtMsip s.cfg (ea + BitVec.ofNat 32 k)) :
    ∃ stale, s.storeClintWord ea v
      = { s with
          mtimecmp := (List.range 4).foldl (fun m k => setByte64 m (4 * h + k) (byteOf v k)) s.mtimecmp
          stale := stale } := by
  refine State.storeClintWord_of_bytes (fun m st => { s with mtimecmp := m, stale := st })
    (fun m k => setByte64 m (4 * h + k) (byteOf v k)) ea v (fun k hk m st => ?_) s.mtimecmp s.stale
  rw [← toNat_half_offset (Config.clintMtimecmp s.cfg) hh hk, ← hea]
  exact State.storeClintByte_at_mtimecmp (s := { s with mtimecmp := m, stale := st }) (byteOf v k)
    (atMtimecmp_byte hh hk hea (hmsip k hk))

theorem State.storeClintWord_mtime {h : Nat} (hh : h < 2)
    (hea : ea = Config.clintMtime s.cfg + BitVec.ofNat 32 (4 * h))
    (hothers : ∀ k < 4, ¬AtMsip s.cfg (ea + BitVec.ofNat 32 k)
      ∧ ¬(ea + BitVec.ofNat 32 k - Config.clintMtimecmp s.cfg).toNat < 8) :
    ∃ stale, s.storeClintWord ea v
      = { s with
          mtime := (List.range 4).foldl (fun m k => setByte64 m (4 * h + k) (byteOf v k)) s.mtime
          stale := stale } := by
  refine State.storeClintWord_of_bytes (fun m st => { s with mtime := m, stale := st })
    (fun m k => setByte64 m (4 * h + k) (byteOf v k)) ea v (fun k hk m st => ?_) s.mtime s.stale
  rw [← toNat_half_offset (Config.clintMtime s.cfg) hh hk, ← hea]
  exact State.storeClintByte_at_mtime (s := { s with mtime := m, stale := st }) (byteOf v k)
    (atMtime_byte hh hk hea (hothers k hk))

theorem State.storeClintWord_hole (hnone : ∀ k < 4, s.clintByte (ea + BitVec.ofNat 32 k) = none) :
    s.storeClintWord ea v = s := by
  obtain ⟨_, hstore⟩ := State.storeClintWord_of_bytes (fun (_ : Unit) _ => s) (fun _ _ => ()) ea v
    (fun k hk _ st => ⟨st, State.storeClintByte_of_hole _ (hnone k hk)⟩) () s.stale
  exact hstore

end

/-! ### What a word load gives (R387) -/

section
variable {s : State} {ea : Word}

theorem State.clintWord_msip (hea : ea = Config.clintMsip s.cfg) :
    s.clintWord ea = if s.msip then 1#32 else 0#32 := by
  have hbyte : ∀ k ∈ List.range 4, (s.clintByte (ea + BitVec.ofNat 32 k)).getD
        (Config.freeClintByte false s.draws (ea + BitVec.ofNat 32 k))
      = if k = 0 ∧ s.msip then 1#8 else 0#8 := fun k hk => by
    have hlt : k < 4 := List.mem_range.1 hk
    rw [hea, State.clintByte_at_msip (atMsip_byte hlt), Option.getD_some]
    simp only [add_ofNat_eq_self_iff (Config.clintMsip s.cfg) (show k < 2 ^ 32 by omega)]
  rw [State.clintWord, List.map_congr_left hbyte]
  cases s.msip <;> rfl

theorem State.clintWord_mtimecmp {h : Nat} (hh : h < 2)
    (hea : ea = Config.clintMtimecmp s.cfg + BitVec.ofNat 32 (4 * h))
    (hmsip : ∀ k < 4, ¬AtMsip s.cfg (ea + BitVec.ofNat 32 k)) :
    s.clintWord ea = BitVec.ofNat 32 (s.mtimecmp.toNat / 2 ^ (32 * h)) := by
  rw [← wordOfBytes_half _ hh, State.clintWord]
  refine congrArg wordOfBytes (List.map_congr_left fun k hk => ?_)
  have hlt : k < 4 := List.mem_range.1 hk
  rw [State.clintByte_at_mtimecmp (atMtimecmp_byte hh hlt hea (hmsip k hlt)), Option.getD_some, hea,
    toNat_half_offset _ hh hlt]

theorem State.clintWord_mtime {h : Nat} (hh : h < 2)
    (hea : ea = Config.clintMtime s.cfg + BitVec.ofNat 32 (4 * h))
    (hothers : ∀ k < 4, ¬AtMsip s.cfg (ea + BitVec.ofNat 32 k)
      ∧ ¬(ea + BitVec.ofNat 32 k - Config.clintMtimecmp s.cfg).toNat < 8) :
    s.clintWord ea = BitVec.ofNat 32 (s.mtime.toNat / 2 ^ (32 * h)) := by
  rw [← wordOfBytes_half _ hh, State.clintWord]
  refine congrArg wordOfBytes (List.map_congr_left fun k hk => ?_)
  have hlt : k < 4 := List.mem_range.1 hk
  rw [State.clintByte_at_mtime (atMtime_byte hh hlt hea (hothers k hlt)), Option.getD_some, hea,
    toNat_half_offset _ hh hlt]

end

/-! ### The statement -/

/-- A word load writes what it reads. -/
theorem loadForm_result_of_word {s : State} {i : Instr} {f : LoadForm} (h : loadForm s i = some f)
    (hw : f.width = .word) : f.result = BitVec.ofNat 32 := by
  cases i with
  | lw | cLw | cLwsp => cases h; rfl
  | lb | lh | lbu | lhu => cases h; cases hw
  | _ => cases h

/-- Settles O35: the access is one transfer, which the CLINT answers byte by byte. -/
theorem clintRegisters : Obligations.ClintRegisters := by
  refine fun s i hregs => ⟨fun f r hf hw halign hr hk hm => ?store, fun f r hf hw halign hr hk hm => ?load⟩
  case store =>
    have hexec : exec i s = .next ((s.storeClintWord f.ea f.value).retire (s.pc + f.ilen)) := by
      rw [exec_of_storeForm hf, State.store, State.checked_ok (regsExist_iff.2 hregs), hw,
        State.memWrite_clint_word halign hr hk hm]
    obtain ⟨hkeepsRegs, hkeepsMem⟩ := s.storeClintWord_keeps f.ea f.value
    refine ⟨_, hexec, rfl, fun x => ?_, fun a => ?_, rfl, fun hea => ?msip, fun h hh hea hmsip => ?mtimecmp,
      fun h hh hea hothers => ?mtime, fun hnone => ?hole⟩
    · rw [State.retire_reg, State.reg, State.reg, hkeepsRegs]
    · rw [State.retire_byteAt, State.byteAt, State.byteAt, hkeepsMem]
    case msip =>
      obtain ⟨stale, e⟩ := State.storeClintWord_msip f.value hea
      rw [e]
      exact ⟨rfl, rfl⟩
    case mtimecmp =>
      obtain ⟨stale, e⟩ := State.storeClintWord_mtimecmp f.value hh hea fun k hk => Nat.not_lt.2 (hmsip k hk)
      rw [e]
      exact ⟨toNat_foldl_setByte64 s.mtimecmp f.value hh, rfl⟩
    case mtime =>
      obtain ⟨stale, e⟩ := State.storeClintWord_mtime f.value hh hea fun k hk =>
        (hothers k hk).imp Nat.not_lt.2 Nat.not_lt.2
      rw [e]
      exact ⟨toNat_foldl_setByte64 s.mtime f.value hh, rfl⟩
    case hole =>
      rw [State.storeClintWord_hole f.value hnone]
      rfl
  case load =>
    obtain ⟨ext, hext, hexec⟩ := exec_of_loadForm hf
    have hid : ext (s.clintWord f.ea) = s.clintWord f.ea := by
      have hnum : BitVec.ofNat 32 (s.clintWord f.ea).toNat = s.clintWord f.ea := by simp
      rw [← hnum, hext, loadForm_result_of_word hf hw]
    have hnext : exec i s = .next ((s.setReg f.rd (s.clintWord f.ea)).retire (s.pc + f.ilen)) := by
      rw [hexec, State.load, State.checked_ok (regsExist_iff.2 hregs), hw, State.memRead_clint_word halign hr hk hm]
      simp only [hid]
    exact ⟨s.clintWord f.ea, _, hnext, RegEffect.of_setReg s f.rd _ _, State.clintWord_msip,
      fun h hh hea hmsip => State.clintWord_mtimecmp hh hea fun k hk => Nat.not_lt.2 (hmsip k hk),
      fun h hh hea hothers => State.clintWord_mtime hh hea fun k hk => (hothers k hk).imp Nat.not_lt.2 Nat.not_lt.2⟩

end Sys2Proof.Machine
